-- ==== Sys2Proof/Word.lean ====
section
/-! DEFINITION. The word types of the block: every register value is one of these, or of a `BitVec` width written where it
stands, or a named code of Machine/State.lean. All are unsigned, bit 0 the least significant; nothing is signed (rule R8). -/

namespace Sys2Proof

/-- A byte, 8 bits in every address space (rule R70), unsigned (rule R8). -/
abbrev Byte := BitVec 8

/-- `COUNT` and `COMPARE`, `CNT_W` = 16 bits (rules R7, R21, R22), unsigned (rule R8). -/
abbrev Count := BitVec 16

/-- `TICKS`, `WTARGET` and the operand `n`, `TICK_W` = 8 bits (rules R7, R30, R32), unsigned (rule R8). -/
abbrev Tick := BitVec 8

/-- A prescaler select code, 3 bits (rules R7, R23). -/
abbrev Psel := BitVec 3

/-- A host operation word `OPW`, 48 bits (rule R103). -/
abbrev Opw := BitVec 48

end Sys2Proof
end

