-- ==== Sys2Proof/Syntax.lean ====
section
/-! DEFINITION. The instructions of the block, one constructor per row of spec/opcode_table.json (rules R6, R104, R109, R110,
R114). -/

namespace Sys2Proof

/-- `MODE`: 0 = `FREE`, 1 = `CMP` (rule R24). -/
inductive TimerMode where
  | free
  | cmp
deriving DecidableEq, Repr, Inhabited

/-- The text buffer that `send_text` reads, selected by `N[0]` (rule R105). -/
inductive BufSel where
  | pbuf
  | xbuf
deriving DecidableEq, Repr, Inhabited

/-- An instruction: a host operation, a reserved `OPSEL` value, a command frame, a response, or a pseudo-instruction. -/
inductive Instr where
  /-- `configure`, `OPSEL` 0x1 (rule R131). -/
  | configure (initial compare : Count) (psel : Psel) (mode : TimerMode)
  /-- `register_callback`, `OPSEL` 0x2; the operand is the handle (rule R132). -/
  | registerCallback (fn : Byte)
  /-- `disable`, `OPSEL` 0x3 (rule R133). -/
  | disable
  /-- `wait_ticks`, `OPSEL` 0x4 (rule R134). -/
  | waitTicks (n : Tick) (initial compare : Count) (psel : Psel) (mode : TimerMode)
  /-- `send_byte`, `OPSEL` 0x8 (rule R171). -/
  | sendByte (b : Byte)
  /-- `receive_byte`, `OPSEL` 0x9 (rule R172). -/
  | receiveByte
  /-- `send_text`, `OPSEL` 0xA (rule R173). -/
  | sendText (buf : BufSel)
  /-- `receive_text`, `OPSEL` 0xB (rule R174). -/
  | receiveText
  /-- Reserved `OPSEL` 0x0 (rule R111). -/
  | reservedOp0
  /-- Reserved `OPSEL` 0x5 (rule R111). -/
  | reservedOp5
  /-- Reserved `OPSEL` 0x6 (rule R111). -/
  | reservedOp6
  /-- Reserved `OPSEL` 0x7 (rule R111). -/
  | reservedOp7
  /-- Reserved `OPSEL` 0xC (rule R111). -/
  | reservedOpC
  /-- Reserved `OPSEL` 0xD (rule R111). -/
  | reservedOpD
  /-- Reserved `OPSEL` 0xE (rule R111). -/
  | reservedOpE
  /-- Reserved `OPSEL` 0xF (rule R111). -/
  | reservedOpF
  /-- `cmd_setpw`, opcode `'0'` (rule R194). -/
  | cmdSetpw
  /-- `cmd_verify`, opcode `'1'` (rule R196). -/
  | cmdVerify
  /-- `cmd_open`, opcode `'2'` (rule R198). -/
  | cmdOpen
  /-- `cmd_lock`, opcode `'3'` (rule R200). -/
  | cmdLock
  /-- `cmd_ignored`, any other byte in opcode position (rule R202). -/
  | cmdIgnored (b : Byte)
  /-- `rsp_match`, response `'1'` (rule R110). -/
  | rspMatch
  /-- `rsp_nomatch`, response `'0'`; the HMI takes every byte other than 0x31 so (rules R110, R227, U12), so it carries the byte. -/
  | rspNomatch (b : Byte)
  /-- `delay_1s`, `wait_ticks 1, 0, 7811, 5, cmp` (rule R138). -/
  | delay1s
  /-- `delay_15s`, `wait_ticks 2, 0, 58593, 5, cmp` (rule R139). -/
  | delay15s
  /-- `delay_60s`, `delay_15s` four times (rule R140). -/
  | delay60s
  /-- `delay_3s`, `delay_1s` three times (rule R140). -/
  | delay3s
  /-- `send_frame`: `send_byte opcode`, then `send_text buf` where a buffer is given (rules R112, R114). -/
  | sendFrame (opcode : Byte) (buf : Option BufSel)
deriving DecidableEq, Repr, Inhabited

end Sys2Proof
end

