-- ==== Sys2Proof/WellFormed.lean ====
section
/-! DEFINITION. Which instructions are legal: the operand checks of rules R109, R110 and R111. -/

namespace Sys2Proof

/-- The opcode bytes `'0'` to `'3'` (rules R108, R109). -/
def isCommandOpcode (b : Byte) : Bool := b == 0x30#8 || b == 0x31#8 || b == 0x32#8 || b == 0x33#8

/-- The opcodes whose frame carries a payload, form `CMD.P` (rules R107, R109). -/
def takesPayload (b : Byte) : Bool := b == 0x30#8 || b == 0x31#8

/-- A select code that names a divisor, 1 to 5 (rules R7, R111 c). -/
def pselLegal (p : Psel) : Bool := 1 ≤ p.toNat && p.toNat ≤ 5

/-- A handle of this block: 0x00 null or 0x01 `TICK_INC` (rules R105, R111 d). -/
def handleLegal (fn : Byte) : Bool := fn == 0x00#8 || fn == 0x01#8

/-- An instruction whose operands are legal: no reserved `OPSEL`, prescaler code or handle (rule R111 b, c, d), the operand
byte of `cmd_ignored` and of `rsp_nomatch` one that decodes to it (rules R109, R110), and `send_frame` in the form its opcode
has (rule R102). -/
def Instr.wellFormed : Instr → Bool
  | .configure _ _ ps _ => pselLegal ps
  | .registerCallback fn => handleLegal fn
  | .disable => true
  | .waitTicks _ _ _ ps _ => pselLegal ps
  | .sendByte _ => true
  | .receiveByte => true
  | .sendText _ => true
  | .receiveText => true
  | .reservedOp0 => false
  | .reservedOp5 => false
  | .reservedOp6 => false
  | .reservedOp7 => false
  | .reservedOpC => false
  | .reservedOpD => false
  | .reservedOpE => false
  | .reservedOpF => false
  | .cmdSetpw => true
  | .cmdVerify => true
  | .cmdOpen => true
  | .cmdLock => true
  | .cmdIgnored b => !isCommandOpcode b
  | .rspMatch => true
  | .rspNomatch b => b != 0x31#8
  | .delay1s => true
  | .delay15s => true
  | .delay60s => true
  | .delay3s => true
  | .sendFrame op buf => takesPayload op == buf.isSome

end Sys2Proof
end

