-- ==== Sys2Proof/Decode.lean ====
section
/-! DEFINITION. The decoders of the three instruction formats `OPW`, `CMD`, `RSP`, then the encoders, the frames and the serial
character (rules R100 to R110, R113), each written from the spec's encoding tables. -/

namespace Sys2Proof

/-! ## Fields of `OPW` (rule R103) -/

/-- `OPSEL`, bits 47:44; the slice `v[hi:lo]` of rule R8. -/
def opselOf (w : Opw) : BitVec 4 := w.extractLsb' 44 4

/-- `A`, bits 43:28: `initial_value`. -/
def initialOf (w : Opw) : Count := w.extractLsb' 28 16

/-- `B`, bits 27:12: `compare_value`. -/
def compareOf (w : Opw) : Count := w.extractLsb' 12 16

/-- `PS`, bits 11:9: the prescaler select code. -/
def pselOf (w : Opw) : Psel := w.extractLsb' 9 3

/-- `M`, bit 8: 0 `FREE`, 1 `CMP`. -/
def modeOf (w : Opw) : TimerMode := if w.getLsbD 8 then .cmp else .free

/-- `N`, bits 7:0. -/
def lowByteOf (w : Opw) : Byte := w.extractLsb' 0 8

/-- `N[0]` of `send_text`: 0 = `PBUF`, 1 = `XBUF`; `N[7:1]` is ignored (rule R105). -/
def bufOf (w : Opw) : BufSel := if w.getLsbD 0 then .xbuf else .pbuf

/-! ## Decoders -/

/-- The instruction of a host operation word, by its `OPSEL` code (rule R104). Fields an operation does not use are ignored. -/
def decodeOpw (w : Opw) : Instr :=
  match (opselOf w).toNat with
  | 0x1 => .configure (initialOf w) (compareOf w) (pselOf w) (modeOf w)
  | 0x2 => .registerCallback (lowByteOf w)
  | 0x3 => .disable
  | 0x4 => .waitTicks (lowByteOf w) (initialOf w) (compareOf w) (pselOf w) (modeOf w)
  | 0x8 => .sendByte (lowByteOf w)
  | 0x9 => .receiveByte
  | 0xA => .sendText (bufOf w)
  | 0xB => .receiveText
  | 0x0 => .reservedOp0
  | 0x5 => .reservedOp5
  | 0x6 => .reservedOp6
  | 0x7 => .reservedOp7
  | 0xC => .reservedOpC
  | 0xD => .reservedOpD
  | 0xE => .reservedOpE
  | _ => .reservedOpF

/-- The command of a byte in opcode position: the whole byte is matched (rules R109, R191). -/
def decodeCmd (b : Byte) : Instr :=
  if b = 0x30#8 then .cmdSetpw
  else if b = 0x31#8 then .cmdVerify
  else if b = 0x32#8 then .cmdOpen
  else if b = 0x33#8 then .cmdLock
  else .cmdIgnored b

/-- The response of a byte in response position: 0x31 is success, every other value failure (rule R110). -/
def decodeRsp (b : Byte) : Instr := if b = 0x31#8 then .rspMatch else .rspNomatch b

/-- The three streams an instruction can be read from: the operation port, the link in opcode position, the link in response
position. The position decides; the byte alone does not (0x30 and 0x31 stand in both tables). -/
inductive Stream where
  | opw
  | cmd
  | rsp
deriving DecidableEq, Repr

/-- One word of an instruction's encoding: an operation word, or a byte on the link. -/
inductive CodeWord where
  | op (w : Opw)
  | byte (b : Byte)
deriving DecidableEq, Repr

/-- Why a decoder has no instruction for what it is given. -/
inductive DecodeReject where
  /-- A word of one stream's width was given to a stream of another width. -/
  | wrongWidth
  /-- The link holds no byte yet: a receiver blocks here (rule R172). -/
  | noOpcode
  /-- The payload's terminator has not arrived: a receiver blocks here (rule R174 b). -/
  | noTerminator
  /-- A tenth payload byte: `BufferOverflow` (rule R174). -/
  | overlong (b : Byte)
deriving DecidableEq, Repr

/-- The instruction of a code word on a stream. -/
def decode (st : Stream) (c : CodeWord) : Except DecodeReject Instr :=
  match st, c with
  | .opw, .op w => .ok (decodeOpw w)
  | .cmd, .byte b => .ok (decodeCmd b)
  | .rsp, .byte b => .ok (decodeRsp b)
  | _, _ => .error .wrongWidth

/-- The host's view: 48 bits are an operation word, 8 bits a byte in opcode position. A response row's byte is also an opcode's;
without a position it is read as the opcode (entry 11). -/
def decodeTableWord (nbits w : Nat) : Option Instr :=
  match nbits with
  | 48 => some (decodeOpw (BitVec.ofNat 48 w))
  | 8 => some (decodeCmd (BitVec.ofNat 8 w))
  | _ => none

/-! ## Encoders -/

/-- `M` of a mode (rule R103). -/
def modeBit : TimerMode → BitVec 1
  | .free => 0#1
  | .cmp => 1#1

/-- `N` of a buffer selection (rule R105). -/
def bufByte : BufSel → Byte
  | .pbuf => 0#8
  | .xbuf => 1#8

/-- An `OPW` from its fields, `OPSEL` in the most significant position (rule R103): the concatenation of rule R8. -/
def packOpw (sel : BitVec 4) (a b : Count) (ps : Psel) (m : BitVec 1) (n : Byte) : Opw := sel ++ a ++ b ++ ps ++ m ++ n

/-- The operation word of a host operation or of a reserved `OPSEL`; unused fields are 0 (rule R104). -/
def encodeOpw : Instr → Option Opw
  | .configure a b ps m => some (packOpw 0x1#4 a b ps (modeBit m) 0#8)
  | .registerCallback fn => some (packOpw 0x2#4 0#16 0#16 0#3 0#1 fn)
  | .disable => some (packOpw 0x3#4 0#16 0#16 0#3 0#1 0#8)
  | .waitTicks n a b ps m => some (packOpw 0x4#4 a b ps (modeBit m) n)
  | .sendByte b => some (packOpw 0x8#4 0#16 0#16 0#3 0#1 b)
  | .receiveByte => some (packOpw 0x9#4 0#16 0#16 0#3 0#1 0#8)
  | .sendText buf => some (packOpw 0xA#4 0#16 0#16 0#3 0#1 (bufByte buf))
  | .receiveText => some (packOpw 0xB#4 0#16 0#16 0#3 0#1 0#8)
  | .reservedOp0 => some (packOpw 0x0#4 0#16 0#16 0#3 0#1 0#8)
  | .reservedOp5 => some (packOpw 0x5#4 0#16 0#16 0#3 0#1 0#8)
  | .reservedOp6 => some (packOpw 0x6#4 0#16 0#16 0#3 0#1 0#8)
  | .reservedOp7 => some (packOpw 0x7#4 0#16 0#16 0#3 0#1 0#8)
  | .reservedOpC => some (packOpw 0xC#4 0#16 0#16 0#3 0#1 0#8)
  | .reservedOpD => some (packOpw 0xD#4 0#16 0#16 0#3 0#1 0#8)
  | .reservedOpE => some (packOpw 0xE#4 0#16 0#16 0#3 0#1 0#8)
  | .reservedOpF => some (packOpw 0xF#4 0#16 0#16 0#3 0#1 0#8)
  | .cmdSetpw => none
  | .cmdVerify => none
  | .cmdOpen => none
  | .cmdLock => none
  | .cmdIgnored _ => none
  | .rspMatch => none
  | .rspNomatch _ => none
  | .delay1s => none
  | .delay15s => none
  | .delay60s => none
  | .delay3s => none
  | .sendFrame _ _ => none

/-- The byte of a command or a response, with the stream it stands on (rules R109, R110). -/
def encodeByte : Instr → Option (Stream × Byte)
  | .cmdSetpw => some (.cmd, 0x30#8)
  | .cmdVerify => some (.cmd, 0x31#8)
  | .cmdOpen => some (.cmd, 0x32#8)
  | .cmdLock => some (.cmd, 0x33#8)
  | .cmdIgnored b => some (.cmd, b)
  | .rspMatch => some (.rsp, 0x31#8)
  | .rspNomatch b => some (.rsp, b)
  | _ => none

/-- The stream an instruction is read from; a pseudo-instruction's words are operation words. -/
def Instr.stream (i : Instr) : Stream :=
  match encodeByte i with
  | some (st, _) => st
  | none => .opw

/-- `delay_1s` written out (rules R114, R138; profile `DLY1_CFG` of rule R7). -/
def delay1sOp : Instr := .waitTicks 1#8 0#16 7811#16 5#3 .cmp

/-- `delay_15s` written out (rules R114, R139; profile `DLY15_CFG` of rule R7). -/
def delay15sOp : Instr := .waitTicks 2#8 0#16 58593#16 5#3 .cmp

/-- The host operations a pseudo-instruction stands for (rule R114); any other instruction stands for itself. -/
def expand : Instr → List Instr
  | .delay1s => [delay1sOp]
  | .delay15s => [delay15sOp]
  | .delay60s => [delay15sOp, delay15sOp, delay15sOp, delay15sOp]
  | .delay3s => [delay1sOp, delay1sOp, delay1sOp]
  | .sendFrame op none => [.sendByte op]
  | .sendFrame op (some buf) => [.sendByte op, .sendText buf]
  | i => [i]

/-- The code word of one instruction that is no pseudo-instruction. -/
def encodeOne (i : Instr) : Option CodeWord :=
  match encodeByte i with
  | some (_, b) => some (.byte b)
  | none => (encodeOpw i).map .op

/-- The words of an instruction: one, or for a pseudo-instruction one for each operation of its expansion. -/
def encode (i : Instr) : List CodeWord := (expand i).filterMap encodeOne

/-! ## Frames (rules R102, R106, R107) -/

/-- A command frame: an opcode with its payload text, or an opcode alone. -/
inductive Frame where
  | payload (opcode : Byte) (text : List Byte)
  | bare (opcode : Byte)
deriving DecidableEq, Repr

/-- The bytes of a frame in the order sent: byte 0 is the opcode, a payload ends in the terminator 0x00. -/
def Frame.bytes : Frame → List Byte
  | .payload op t => op :: (t ++ [0#8])
  | .bare op => [op]

/-- The bytes up to the first 0x00, at most nine of them, and what follows the terminator (rules R106, R174). `room` is how many
bytes the buffer still takes. -/
def cutText (room : Nat) : List Byte → Except DecodeReject (List Byte × List Byte)
  | [] => .error .noTerminator
  | b :: rest =>
    if b = 0#8 then .ok ([], rest)
    else match room with
      | 0 => .error (.overlong b)
      | room + 1 =>
        match cutText room rest with
        | .ok (t, rest') => .ok (b :: t, rest')
        | .error e => .error e

/-- The first frame of a byte stream: its length follows from the opcode (rule R107). -/
def cutFrame : List Byte → Except DecodeReject (Frame × List Byte)
  | [] => .error .noOpcode
  | op :: rest =>
    if takesPayload op then
      match cutText 9 rest with
      | .ok (t, rest') => .ok (.payload op t, rest')
      | .error e => .error e
    else .ok (.bare op, rest)

/-! ## The serial character (rules R74, R101) -/

/-- The line values of one character in time order: start bit 0, the data bits least significant first, stop bit 1. -/
def charBits (d : Byte) : List Bool :=
  [false, d.getLsbD 0, d.getLsbD 1, d.getLsbD 2, d.getLsbD 3, d.getLsbD 4, d.getLsbD 5, d.getLsbD 6, d.getLsbD 7, true]

/-- The byte of ten line values that form a character. -/
def charByte : List Bool → Option Byte
  | [false, b0, b1, b2, b3, b4, b5, b6, b7, true] =>
    some (BitVec.ofBool b7 ++ BitVec.ofBool b6 ++ BitVec.ofBool b5 ++ BitVec.ofBool b4
      ++ BitVec.ofBool b3 ++ BitVec.ofBool b2 ++ BitVec.ofBool b1 ++ BitVec.ofBool b0)
  | _ => none

/-! ## Assembly text (rule R113) -/

/-- `mode` as written. -/
def modeText : TimerMode → String
  | .free => "free"
  | .cmp => "cmp"

/-- `buf` as written. -/
def bufText : BufSel → String
  | .pbuf => "pbuf"
  | .xbuf => "xbuf"

/-- `fn` as written; a handle with no name is written as a number. -/
def handleText (fn : Byte) : String :=
  if fn = 0#8 then "null" else if fn = 1#8 then "tick_inc" else toString fn.toNat

/-- The `configure` operands as written. -/
def configText (a b : Count) (ps : Psel) (m : TimerMode) : String :=
  toString a.toNat ++ ", " ++ toString b.toNat ++ ", " ++ toString ps.toNat ++ ", " ++ modeText m

/-- An instruction as rule R113 writes it; a command frame's payload is no part of its opcode. A reserved `OPSEL` has no
assembly. -/
def Instr.asm : Instr → Option String
  | .configure a b ps m => some ("configure " ++ configText a b ps m)
  | .registerCallback fn => some ("register_callback " ++ handleText fn)
  | .disable => some "disable"
  | .waitTicks n a b ps m => some ("wait_ticks " ++ toString n.toNat ++ ", " ++ configText a b ps m)
  | .sendByte b => some ("send_byte " ++ toString b.toNat)
  | .receiveByte => some "receive_byte"
  | .sendText buf => some ("send_text " ++ bufText buf)
  | .receiveText => some "receive_text"
  | .cmdSetpw => some "frame '0'"
  | .cmdVerify => some "frame '1'"
  | .cmdOpen => some "frame '2'"
  | .cmdLock => some "frame '3'"
  | .cmdIgnored b => some ("frame " ++ toString b.toNat)
  | .rspMatch => some "rsp '1'"
  | .rspNomatch b => some (if b = 0x30#8 then "rsp '0'" else "rsp " ++ toString b.toNat)
  | .delay1s => some "delay_1s"
  | .delay15s => some "delay_15s"
  | .delay60s => some "delay_60s"
  | .delay3s => some "delay_3s"
  | .sendFrame op none => some ("send_frame " ++ toString op.toNat)
  | .sendFrame op (some buf) => some ("send_frame " ++ toString op.toNat ++ ", " ++ bufText buf)
  | .reservedOp0 => none
  | .reservedOp5 => none
  | .reservedOp6 => none
  | .reservedOp7 => none
  | .reservedOpC => none
  | .reservedOpD => none
  | .reservedOpE => none
  | .reservedOpF => none

end Sys2Proof
end

