-- ==== Sys2Proof/Config.lean ====
section
/-! DEFINITION. What an implementation fixes and what the spec leaves open: the parameters of rule R7, the agents' events of
rule R10, and the free values. A free value is an opaque constant: no proof can see what it is. -/

namespace Sys2Proof

/-- `ROLE`: which shell an instance has (rule R2). -/
inductive Role where
  | hmi
  | ctrl
deriving DecidableEq, Repr, Inhabited

/-- The other unit. -/
def Role.peer : Role → Role
  | .hmi => .ctrl
  | .ctrl => .hmi

/-- A unit's one foreground: the hard-wired shell, or free-standing firmware on the operation port (rules R48, R103, R304).
DESIGN CHOICE, entry 4; safe. -/
inductive Foreground where
  | shell
  | firmware
deriving DecidableEq, Repr, Inhabited

/-- One turn of one agent (rules R10, R103, R300). A turn that is not enabled changes nothing. DESIGN CHOICE, entry 2; safe. -/
inductive Event where
  /-- `FG` of a unit: a foreground transition. -/
  | fg (r : Role)
  /-- `CLK` of a unit: a clock event (rule R135). -/
  | clk (r : Role)
  /-- `IRQ` of a unit: the handler step (rule R266). -/
  | irq (r : Role)
  /-- `ENV` answers the open `Key()` call (rule R52). -/
  | key (k : Byte)
  /-- The unit's firmware presents an operation word (rule R103). -/
  | present (r : Role) (w : Opw)
  /-- The unit's reset input (rule R300); the unit restarts with the foreground named. -/
  | reset (r : Role) (f : Foreground)
deriving DecidableEq, Repr, Inhabited

/-- The parameters marked `OPEN` in rule R7 that a rule reads. -/
structure Params where
  /-- `KEY_OPEN` (rules R7, R115). -/
  keyOpen : Byte
  /-- `KEY_CHANGE` (rules R7, R115). -/
  keyChange : Byte
  /-- `PW_BASE` (rules R7, R72). -/
  pwBase : Nat
  /-- `ST_ADDR_W` (rule R7). -/
  stAddrW : Nat
deriving DecidableEq, Repr

/-- The constraints rule R7 puts on the parameters. -/
def Params.wf (p : Params) : Bool :=
  p.keyOpen != p.keyChange && p.keyOpen != 13#8 && p.keyChange != 13#8 && decide (p.pwBase + 8 < 2 ^ p.stAddrW)

/-- The number that stands at place `n` when `x` is left out. -/
def Config.skip (x n : Nat) : Nat := if n < x then n else n + 1

/-- Free value: the place of `KEY_OPEN` among the 255 bytes other than 13, and of `KEY_CHANGE` among the 254 that remain.
Entry 9; safe. -/
opaque Config.menuKeys : Fin 255 × Fin 254

/-- Free value: how far `ST_ADDR_W` lies above 4, the least width rule R7's constraint allows. Entry 9; safe. -/
opaque Config.addrWidthDraw : Nat

/-- Free value: the draw of `PW_BASE`, reduced to the range rule R7 allows. Entry 9; safe. -/
opaque Config.pwBaseDraw : Nat

/-- The implementation's parameters: any that meet rule R7's constraints. -/
def Config.params : Params :=
  let o := Config.skip 13 Config.menuKeys.1
  { keyOpen := BitVec.ofNat 8 o
    keyChange := BitVec.ofNat 8 (Config.skip (max 13 o) (Config.skip (min 13 o) Config.menuKeys.2))
    pwBase := Config.pwBaseDraw % (2 ^ (Config.addrWidthDraw + 4) - 8)
    stAddrW := Config.addrWidthDraw + 4 }

/-- Free value: whose turn is the `n`-th of those the agenda does not fix (rules R10, R81). Entry 2; safe. -/
opaque Config.arbiter : Nat → Event

/-- Free value: what a byte of `STORE` never written since manufacture holds (rule R54, U11). Entry 8; safe. -/
opaque Config.storeInit : Nat → Byte

/-- Free value: byte `i` of a text buffer after the reset that takes draw `n` (rule R57, U5); places 0 to 9 are `PBUF`,
10 to 19 `XBUF`. Entry 6; safe. -/
opaque Config.resetByte : Nat → Nat → Byte

/-- Free value: `PWLEN` after the reset that takes draw `n`, 0 to 9 (rule R42, U6). Entry 7; safe. -/
opaque Config.resetPwlen : Nat → Fin 10

end Sys2Proof
end

