-- ==== Sys2Proof/Machine/State.lean ====
section
/-! DEFINITION. The state of the two-unit system, the faults and refusals, and the state after reset (file 10_state.md). -/

namespace Sys2Proof.Machine

/-! ## Tick Timer group -/

/-- `CB`: the callback slot (rule R29). -/
inductive Callback where
  | none
  | tickInc
deriving DecidableEq, Repr, Inhabited

/-- The Tick Timer group of one unit (rules R21 to R32). -/
structure Timer where
  /-- `COUNT` (rule R21). -/
  count : Count
  /-- `COMPARE` (rule R22). -/
  compare : Count
  /-- `PSEL` (rule R23). -/
  psel : Psel
  /-- `MODE` (rule R24). -/
  mode : TimerMode
  /-- `RUN` (rule R25). -/
  run : Bool
  /-- `IE` (rule R26). -/
  ie : Bool
  /-- `IF` (rule R27). -/
  pending : Bool
  /-- `PDIV` (rule R28). -/
  pdiv : BitVec 10
  /-- `CB` (rule R29). -/
  cb : Callback
  /-- `TICKS` (rule R30). -/
  ticks : Tick
  /-- `WAITING` (rule R31). -/
  waiting : Bool
  /-- `WTARGET` (rule R32). -/
  wtarget : Tick
deriving DecidableEq, Repr

/-- The Tick Timer group after reset (rule R57). -/
def Timer.reset : Timer :=
  { count := 0, compare := 0, psel := 0, mode := .free, run := false, ie := false, pending := false, pdiv := 0
    cb := .none, ticks := 0, waiting := false, wtarget := 0 }

/-! ## Command Framer group -/

/-- A text buffer of `PBUF_CAP` = 10 bytes with its length register (rules R36, R37). -/
structure Text where
  /-- `PBUF[0]` to `PBUF[9]`, or `XBUF[0]` to `XBUF[9]`. -/
  bytes : Vector Byte 10
  /-- `PLEN`, or `XLEN`. -/
  len : BitVec 4
deriving DecidableEq, Repr

/-- A text buffer in `State.reset`: length 0; the spec leaves the bytes unspecified (rule R57) and the model names 0x00.
DESIGN CHOICE, entry 6; unsafe. -/
def Text.reset : Text := { bytes := Vector.replicate 10 0, len := 0 }

/-- What the foreground is in the middle of: the operation whose done strobe is held back, and how far it has got (rules R76,
R103, R173, R174, R192, R224). DEDUCED, entry 3; safe. -/
inductive Activity where
  /-- Nothing: the next operation may be issued. -/
  | idle
  /-- `wait_ticks` has begun and its return has not been taken. -/
  | inWait
  /-- `receive_byte` was issued on an empty queue. -/
  | inReceiveByte
  /-- `send_text` of a buffer has sent so many text bytes. -/
  | inSendText (buf : BufSel) (sent : BitVec 4)
  /-- `receive_text` has begun. -/
  | inReceiveText
  /-- `capture` has begun: a `Key()` call is open. -/
  | inCapture
deriving DecidableEq, Repr, Inhabited

/-- One LTT instance, less the shell registers. -/
structure Block where
  /-- The Tick Timer group. -/
  timer : Timer
  /-- `RXQ`, oldest byte first (rule R34). -/
  rxq : List Byte
  /-- `PBUF` and `PLEN` (rule R36). -/
  pbuf : Text
  /-- `XBUF` and `XLEN` (rule R37). -/
  xbuf : Text
  /-- The operation port: the word now presented, then those the foreground presents after it (rule R103). -/
  port : List Opw
  /-- `op_done`: the last foreground transition on the port completed its operation (rule R103). -/
  opDone : Bool
  /-- `RES`, the result port of `receive_byte` (rules R103, R172). -/
  res : Byte
  /-- The operation in progress. -/
  act : Activity
  /-- Which foreground the unit has. -/
  fore : Foreground
deriving DecidableEq, Repr

/-- One LTT instance in `State.reset` (rule R57); the port, `op_done` and `RES` at values the model names.
DESIGN CHOICE, entry 5; unsafe. -/
def Block.reset : Block :=
  { timer := Timer.reset, rxq := [], pbuf := Text.reset, xbuf := Text.reset, port := [], opDone := false, res := 0
    act := .idle, fore := .shell }

/-! ## Shell group -/

/-- `ST` of role `HMI` (rule R38). -/
inductive HmiState where
  | idle
  | choice
  | verify
  | locked
  | opening
  | setting
deriving DecidableEq, Repr, Inhabited

/-- `ST` of role `CTRL` (rule R38). -/
inductive CtrlState where
  | wait
  | setpw
  | verify
  | open
  | lock
deriving DecidableEq, Repr, Inhabited

/-- `ACTION` (rule R41): 0 = `ACT_OPEN`, 1 = `ACT_CHANGE`. -/
inductive Action where
  | open
  | change
deriving DecidableEq, Repr, Inhabited

/-- `MOTOR` (rule R43). -/
inductive Motor where
  | stopped
  | forward
  | reverse
deriving DecidableEq, Repr, Inhabited

/-- `ALARM` (rule R44). -/
inductive Alarm where
  | off
  | on
deriving DecidableEq, Repr, Inhabited

/-- The shell registers of role `HMI` (rules R38 to R41). -/
structure HmiShell where
  /-- `ST`. -/
  st : HmiState
  /-- `STEP` (rule R39). -/
  step : BitVec 5
  /-- `IDX` (rule R39); the HMI step tables do not use it. -/
  idx : BitVec 4
  /-- `BOOTED` (rule R39). -/
  booted : Bool
  /-- `TRIALS` (rule R40). -/
  trials : BitVec 2
  /-- `ACTION` (rule R41). -/
  action : Action
  /-- `RESP` (rule R41). -/
  resp : Byte
deriving DecidableEq, Repr

/-- The shell registers of role `CTRL` (rules R38, R39, R42 to R44). -/
structure CtrlShell where
  /-- `ST`. -/
  st : CtrlState
  /-- `STEP` (rule R39). -/
  step : BitVec 5
  /-- `IDX` (rule R39). -/
  idx : BitVec 4
  /-- `BOOTED` (rule R39). -/
  booted : Bool
  /-- `PWLEN` (rule R42). -/
  pwlen : BitVec 4
  /-- `MOTOR` (rule R43). -/
  motor : Motor
  /-- `ALARM` (rule R44). -/
  alarm : Alarm
deriving DecidableEq, Repr

/-- The HMI shell after reset (rules R57, R221). -/
def HmiShell.reset : HmiShell :=
  { st := .setting, step := 0, idx := 0, booted := false, trials := 3, action := .open, resp := 0 }

/-- The CTRL shell in `State.reset` (rule R57); `PWLEN` is unspecified there and the model names 0.
DESIGN CHOICE, entry 7; unsafe. -/
def CtrlShell.reset : CtrlShell :=
  { st := .wait, step := 0, idx := 0, booted := false, pwlen := 0, motor := .stopped, alarm := .off }

/-- A display request (rule R53). -/
inductive DispMsg where
  | menu
  | enter
  | confirm
  | mask
  | ok
  | fail
  | mismatch
  | saved
  | locked
  | unlocking
  | count (k : Nat)
  | locking
deriving DecidableEq, Repr, Inhabited

/-! ## Memory -/

/-- The contents of `STORE`: the (address, byte) pairs written so far. An address not listed was never written; `memRead` of
Machine/Ops.lean says what it reads as. -/
abbrev Memory := List Host.Cell

/-- The one canonical form of a memory: addresses strictly rising. (A listed byte is never what an unlisted address reads as at
this level, which is no byte at all.) -/
abbrev Memory.wf (m : Memory) : Prop := m.Pairwise fun a b => a.1 < b.1

/-! ## The system -/

/-- The two units, the link between them (each unit's `RXQ`), their collaborators, and the order of events. -/
structure State where
  /-- The parameters of rule R7; no step writes them. -/
  params : Params
  /-- The HMI unit's instance. -/
  hmi : Block
  /-- The HMI unit's shell. -/
  hmiShell : HmiShell
  /-- The control unit's instance. -/
  ctrl : Block
  /-- The control unit's shell. -/
  ctrlShell : CtrlShell
  /-- `STORE`: the bytes written so far, addresses strictly rising (rules R54, R70). -/
  store : Memory
  /-- The key `ENV` has supplied to the open `Key()` call (rule R52). -/
  key : Option Byte
  /-- The display requests made so far, oldest first (rule R53). -/
  disp : List DispMsg
  /-- The unit whose foreground is moving. The model's own field, entry 1. -/
  cur : Role
  /-- The events still to happen, next one first. The model's own field, entry 2. -/
  agenda : List Event
  /-- How many turns the arbiter has given: each turn that the agenda does not fix takes one, and nothing else does. The model's own
  field, entry 2. -/
  turns : Nat
  /-- How many reset events have drawn their unspecified values. The model's own field, entries 6 and 7. -/
  draws : Nat
deriving DecidableEq, Repr

/-- Why a step stops with a fault. -/
inductive Fault where
  /-- Raised by `receive_text` and `capture` on a tenth text byte (rules R78, R174, R224, R262; U3); carries that byte. Safe: the
  source defines no outcome there, and the model stops. -/
  | bufferOverflow (b : Byte)
deriving DecidableEq, Repr

/-- Why a step has no meaning. The list of rule R262 is closed; `notModelled` is the host's. -/
inductive Refusal where
  /-- An `OPW` with a reserved `OPSEL` (rules R111 b, R262; U7). Safe: no meaning is given. -/
  | reservedOp
  /-- `PS` of 0, 6 or 7 in `configure` or `wait_ticks` (rules R111 c, R131, R262; U8). Safe: no meaning is given. -/
  | reservedPrescaler
  /-- A `register_callback` handle other than 0x00 and 0x01 (rules R111 d, R132, R262; U9). Safe: no meaning is given. -/
  | badHandler
  /-- `wait_ticks` begun with `TICKS` ≠ 0 (rules R134 e, R262; U2). Safe: no meaning is given. -/
  | staleTicks
  /-- An instruction of the table that has no meaning in this model. No arm answers with it. Safe: the model stops. -/
  | notModelled (mnemonic : String)
deriving DecidableEq, Repr

/-- The system right after both units' reset (rules R57, R300, R302): nothing on the link, nothing written to `STORE` by the
block, the parameters any that rule R7 allows. -/
def State.reset : State :=
  { params := Config.params
    hmi := Block.reset
    hmiShell := HmiShell.reset
    ctrl := Block.reset
    ctrlShell := CtrlShell.reset
    store := []
    key := none
    disp := []
    cur := .ctrl
    agenda := []
    turns := 0
    draws := 0 }

end Sys2Proof.Machine
end

