-- ==== Sys2Proof/Machine/Operands.lean ====
section
/-! DEFINITION. The operand forms: the prescaler code, the callback handle, the buffer index, the storage address (rules R7, R105,
R111, R141, R176). -/

namespace Sys2Proof.Machine

/-- `P(PSEL)`, the clock divisor of a select code; 0, 6 and 7 select none (rules R7, R23, R111 c). -/
def divisor (p : Psel) : Option Nat :=
  match p.toNat with
  | 1 => some 1
  | 2 => some 8
  | 3 => some 64
  | 4 => some 256
  | 5 => some 1024
  | _ => none

/-- What a `register_callback` handle names (rules R105, R132). -/
inductive Handle where
  /-- 0x00. -/
  | null
  /-- 0x01. -/
  | tickInc
  /-- No handler of this block. -/
  | bad
deriving DecidableEq, Repr

/-- The handle of an operand byte (rule R105). -/
def handleOf (fn : Byte) : Handle := if fn = 0x00#8 then .null else if fn = 0x01#8 then .tickInc else .bad

/-- `BUF[i]` (rule R9). Indexes 0 to 9 are all that exist (rule R70); no rule reads another. -/
def Text.byte (t : Text) (i : Nat) : Byte := t.bytes[i]?.getD 0

/-- The address `PW_BASE + i`, taken in `ST_ADDR_W` bits (rules R72, R141). -/
def storeAddr (p : Params) (i : Nat) : Nat := (p.pwBase + i) % 2 ^ p.stAddrW

/-- `eq(X, Y, size)`: equal at every position below `size` (rule R197). -/
def textEq (x y : Text) (size : Nat) : Bool := (List.range size).all fun i => x.byte i == y.byte i

/-- Two texts match exactly when their lengths agree and every position does; the length test comes first (rules R196, R225). -/
def textsMatch (x y : Text) : Bool := x.len == y.len && textEq x y x.len.toNat

end Sys2Proof.Machine
end

