-- ==== Sys2Proof/Machine/Flags.lean ====
section
/-! DEFINITION. The status flags `RUN`, `IE`, `IF`, `WAITING` and what is computed from them (rules R25 to R27, R31, R49, R136,
R265), and the register codes and outputs (rules R38, R41, R43 to R45, D14). -/

namespace Sys2Proof.Machine

/-- The flags as `configure` leaves them: `RUN` = 1, `IE` = 1, `IF` = 0 (rule R131). -/
def Timer.armFlags (t : Timer) : Timer := { t with run := true, ie := true, pending := false }

/-- The flags as `disable` leaves them: `RUN` = 0, `IE` = 0, `IF` = 0 (rule R133). -/
def Timer.clearFlags (t : Timer) : Timer := { t with run := false, ie := false, pending := false }

/-- The interrupt-request output, the level `IF and IE` (rule R265). -/
def Timer.irqLine (t : Timer) : Bool := t.pending && t.ie

/-- Whether a count event fires: a compare match in mode `CMP`, the overflow in mode `FREE` (rule R136). -/
def Timer.fires (t : Timer) : Bool :=
  match t.mode with
  | .cmp => t.count == t.compare
  | .free => t.count == 65535#16

/-- The foreground may issue an operation: no wait is in progress (rule R31) and no operation is (rule R81). -/
def Block.ready (b : Block) : Bool := !b.timer.waiting && b.act == .idle

/-- `ST` of role `HMI` as 3 bits (rule R38). -/
def HmiState.code : HmiState → BitVec 3
  | .idle => 0
  | .choice => 1
  | .verify => 2
  | .locked => 3
  | .opening => 4
  | .setting => 5

/-- `ST` of role `CTRL` as 3 bits (rule R38). -/
def CtrlState.code : CtrlState → BitVec 3
  | .wait => 0
  | .setpw => 1
  | .verify => 2
  | .open => 3
  | .lock => 4

/-- `ACTION` as 1 bit (rule R41). -/
def Action.code : Action → BitVec 1
  | .open => 0
  | .change => 1

/-- The `motor` output, 2 bits (rules R43, D14). -/
def Motor.code : Motor → BitVec 2
  | .stopped => 0
  | .forward => 1
  | .reverse => 2

/-- The `alarm` output, 1 bit (rules R44, D14). -/
def Alarm.code : Alarm → BitVec 1
  | .off => 0
  | .on => 1

/-- The door state, inferred from the sequence position (rule R45). -/
inductive Door where
  | closed
  | opening
  | open
  | closing
deriving DecidableEq, Repr

/-- `DOOR(ST, STEP)` (rule R45). -/
def doorOf (st : CtrlState) (step : BitVec 5) : Door :=
  match st with
  | .open =>
    if 1 ≤ step.toNat ∧ step.toNat ≤ 2 then .opening
    else if 3 ≤ step.toNat ∧ step.toNat ≤ 6 then .open
    else if 7 ≤ step.toNat ∧ step.toNat ≤ 8 then .closing
    else .closed
  | .wait | .setpw | .verify | .lock => .closed

/-- The last step number of a state's table, role `CTRL` (rules R191, R194, R196, R198, R200). -/
def CtrlState.lastStep : CtrlState → Nat
  | .wait => 0
  | .setpw => 3
  | .verify => 4
  | .open => 8
  | .lock => 5

/-- The last step number of a state's table, role `HMI` (rules R222, R223, R226, R228, R229, R230). -/
def HmiState.lastStep : HmiState → Nat
  | .idle => 0
  | .choice => 0
  | .verify => 7
  | .locked => 5
  | .opening => 10
  | .setting => 7

end Sys2Proof.Machine
end

