-- ==== Sys2Proof/Machine/Ops.lean ====
section
/-! DEFINITION. The named operations over registers, buffers, queues, `STORE` and the display, and taking the timer interrupt
(files 10_state.md, 20_memory.md, 60_exceptions.md). -/

namespace Sys2Proof.Machine

/-- The outcome of one transition. -/
abbrev Result := Host.Outcome State Fault Refusal

/-! ## The units -/

/-- The LTT instance of a unit (rule R2). -/
def State.block (s : State) : Role → Block
  | .hmi => s.hmi
  | .ctrl => s.ctrl

/-- The state with one unit's instance replaced. -/
def State.setBlock (s : State) (r : Role) (b : Block) : State :=
  match r with
  | .hmi => { s with hmi := b }
  | .ctrl => { s with ctrl := b }

/-- The Tick Timer group of a unit. -/
def State.timer (s : State) (r : Role) : Timer := (s.block r).timer

/-- The state with one unit's Tick Timer group replaced. -/
def State.setTimer (s : State) (r : Role) (t : Timer) : State := s.setBlock r { s.block r with timer := t }

/-- The state with one unit's operation in progress replaced. -/
def State.setAct (s : State) (r : Role) (a : Activity) : State := s.setBlock r { s.block r with act := a }

/-- `BOOTED` of a unit (rule R39). -/
def State.booted (s : State) : Role → Bool
  | .hmi => s.hmiShell.booted
  | .ctrl => s.ctrlShell.booted

/-- `BOOTED <- 1` of a unit (rule R303). -/
def State.setBooted (s : State) : Role → State
  | .hmi => { s with hmiShell := { s.hmiShell with booted := true } }
  | .ctrl => { s with ctrlShell := { s.ctrlShell with booted := true } }

/-! ## The link (rules R34, R35, R82) -/

/-- `push(Q, b)` onto a unit's `RXQ`. -/
def State.push (s : State) (r : Role) (b : Byte) : State := s.setBlock r { s.block r with rxq := (s.block r).rxq ++ [b] }

/-! ## Text buffers (rules R36, R37, R78, R174, R224) -/

/-- The buffer a selection names. -/
def Block.text (b : Block) : BufSel → Text
  | .pbuf => b.pbuf
  | .xbuf => b.xbuf

/-- The instance with one buffer replaced. -/
def Block.setText (b : Block) (sel : BufSel) (t : Text) : Block :=
  match sel with
  | .pbuf => { b with pbuf := t }
  | .xbuf => { b with xbuf := t }

/-- `LEN <- 0`. -/
def Text.clear (t : Text) : Text := { t with len := 0 }

/-- `BUF[LEN] <- 0x00`. -/
def Text.terminate (t : Text) : Text := { t with bytes := t.bytes.setIfInBounds t.len.toNat 0 }

/-- `BUF[LEN] <- b; LEN <- LEN + 1`; none where the buffer is full and the write would be the tenth text byte. -/
def Text.append (t : Text) (b : Byte) : Option Text :=
  if 9 ≤ t.len.toNat then none else some { bytes := t.bytes.setIfInBounds t.len.toNat b, len := t.len + 1 }

/-- `BUF[i] <- b`. -/
def Text.setByte (t : Text) (i : Nat) (b : Byte) : Text := { t with bytes := t.bytes.setIfInBounds i b }

/-! ## `STORE` (rules R54, R70, R72) -/

/-- The byte last written to an address, if one was. -/
def Memory.read : Memory → Nat → Option Byte
  | [], _ => none
  | (a, v) :: rest, addr => if addr = a then some v else Memory.read rest addr

/-- The memory after a byte is written to an address. -/
def Memory.write : Memory → Nat → Byte → Memory
  | [], addr, b => [(addr, b)]
  | (a, v) :: rest, addr, b =>
    if addr < a then (addr, b) :: (a, v) :: rest
    else if addr = a then (addr, b) :: rest
    else (a, v) :: Memory.write rest addr b

/-- `MemRead(addr, 1)`: the last byte written, or, where none was, the unspecified byte the storage has held since manufacture
(rule R54, U11), a free value. The settle delay is part of the access. Entries 8, 22. -/
def memRead (m : Memory) (addr : Nat) : Byte := (m.read addr).getD (Config.storeInit addr)

/-- `MemWrite(PW_BASE + i, 1, b)` (rules R54, R72). -/
def State.storeByte (s : State) (i : Nat) (b : Byte) : State :=
  { s with store := s.store.write (storeAddr s.params i) b }

/-- `MemRead(PW_BASE + i, 1)` (rules R54, R72). -/
def State.storedByte (s : State) (i : Nat) : Byte := memRead s.store (storeAddr s.params i)

/-! ## The display (rule R53) -/

/-- `Disp(m)`: the request joins the output trace. Entry 16. -/
def State.show (s : State) (m : DispMsg) : State := { s with disp := s.disp ++ [m] }

/-! ## Arming the counter -/

/-- What `configure` writes (rule R131). -/
def Timer.arm (t : Timer) (a b : Count) (ps : Psel) (m : TimerMode) : Timer :=
  { t.armFlags with count := a, compare := b, psel := ps, mode := m, pdiv := 0 }

/-! ## Taking the timer interrupt (rules R264 to R270) -/

/-- `WaitComplete` (rule R267). -/
def Timer.waitComplete (t : Timer) : Timer := { t.clearFlags with ticks := 0, waiting := false }

/-- The handler `TICK_INC`: one increment modulo 256, and the wait's completion in the same step when the target is reached
(rules R266, R267). -/
def Timer.tickInc (t : Timer) : Timer :=
  let t' := { t with ticks := t.ticks + 1 }
  if t'.waiting && t'.ticks == t'.wtarget then t'.waitComplete else t'

/-- The body of the handler step: the firing is acknowledged and the registered callback invoked; with none it is dropped
(rule R266). Nothing is saved and nothing restored (rules R269, R270). -/
def Timer.handler (t : Timer) : Timer :=
  let t' := { t with pending := false }
  match t'.cb with
  | .none => t'
  | .tickInc => t'.tickInc

/-- Taking the interrupt: enabled exactly when `IF` = 1 and `IE` = 1 (rule R266). -/
def Timer.takeInterrupt (t : Timer) : Timer := if t.irqLine then t.handler else t

end Sys2Proof.Machine
end

