-- ==== Sys2Proof/Machine/Clock.lean ====
section
/-! DEFINITION. The counter's own transitions, taken by the `CLK` agent (rules R135, R136). -/

namespace Sys2Proof.Machine

/-- The count event (rule R136). A firing clears `COUNT` and sets `IF`; otherwise `COUNT` rises by 1 modulo 2^16. -/
def Timer.countEvent (t : Timer) : Timer :=
  if t.fires then { t with count := 0, pending := true } else { t with count := t.count + 1 }

/-- The clock event (rule R135): every `P(PSEL)`-th one while `RUN` = 1 is a count event. With no divisor selected, which
rule R33 d excludes while `RUN` = 1, nothing changes (entry 20). -/
def Timer.clockEvent (t : Timer) : Timer :=
  if t.run then
    match divisor t.psel with
    | none => t
    | some p => if t.pdiv.toNat + 1 = p then { t with pdiv := 0 }.countEvent else { t with pdiv := t.pdiv + 1 }
  else t

end Sys2Proof.Machine
end

