-- ==== Sys2Proof/Machine/HostOps.lean ====
section
/-! DEFINITION. The eight host operations on a unit's instance, one transition each (files 40_timer.md, 41_channel.md), shared by
the operation port, the shells and the pseudo-instructions. An operation that is not enabled (a wait or another operation is in
progress, rules R31, R81) leaves the state as it is: the foreground stays where it is (entry 18). -/

namespace Sys2Proof.Machine

/-! ## Tick Timer -/

/-- `configure` (rule R131). -/
def opConfigure (r : Role) (a b : Count) (ps : Psel) (m : TimerMode) (s : State) : Result :=
  if (s.block r).ready then
    match divisor ps with
    | none => .refused .reservedPrescaler
    | some _ => .next (s.setTimer r ((s.timer r).arm a b ps m))
  else .next s

/-- `register_callback` (rule R132): the null handle is silently ignored. -/
def opRegisterCallback (r : Role) (fn : Byte) (s : State) : Result :=
  if (s.block r).ready then
    match handleOf fn with
    | .null => .next s
    | .tickInc => .next (s.setTimer r { s.timer r with cb := .tickInc })
    | .bad => .refused .badHandler
  else .next s

/-- `disable` (rule R133). -/
def opDisable (r : Role) (s : State) : Result :=
  if (s.block r).ready then .next (s.setTimer r (s.timer r).clearFlags) else .next s

/-- The timer group after the begin step of `wait_ticks` (rule R134): complete at once for `n` = 0, else the wait stands. -/
def Timer.beginWait (t : Timer) (n : Tick) (a b : Count) (ps : Psel) (m : TimerMode) : Timer :=
  if n = 0 then { (t.arm a b ps m).clearFlags with ticks := 0 }
  else { t.arm a b ps m with wtarget := n, waiting := true }

/-- `wait_ticks` (rule R134): the begin step; and, once the handler step has completed the wait, the return to the foreground
(rules R192, R267; entry 3). While `WAITING` = 1 the foreground is blocked. -/
def opWaitTicks (r : Role) (n : Tick) (a b : Count) (ps : Psel) (m : TimerMode) (s : State) : Result :=
  if (s.timer r).waiting then .next s
  else
    match (s.block r).act with
    | .idle =>
      if (s.timer r).ticks ≠ 0 then .refused .staleTicks
      else
        match divisor ps with
        | none => .refused .reservedPrescaler
        | some _ =>
          .next ((s.setTimer r ((s.timer r).beginWait n a b ps m)).setAct r (if n = 0 then .idle else .inWait))
    | .inWait => .next (s.setAct r .idle)
    | .inReceiveByte | .inSendText _ _ | .inReceiveText | .inCapture => .next s

/-! ## Command Framer -/

/-- `send_byte` (rule R171): the byte joins the peer's queue; never blocks. -/
def opSendByte (r : Role) (b : Byte) (s : State) : Result :=
  if (s.block r).ready then .next (s.push r.peer b) else .next s

/-- `receive_byte` (rule R172): blocks while `RXQ` is empty, else pops into `RES`. -/
def opReceiveByte (r : Role) (s : State) : Result :=
  let u := s.block r
  if u.timer.waiting then .next s
  else if u.act = .idle ∨ u.act = .inReceiveByte then
    match u.rxq with
    | [] => .next (s.setAct r .inReceiveByte)
    | b :: rest => .next (s.setBlock r { u with rxq := rest, res := b, act := .idle })
  else .next s

/-- How many text bytes `send_text buf` has sent, where it is the foreground's operation. -/
def Activity.sent (a : Activity) (buf : BufSel) : Option (BitVec 4) :=
  match a with
  | .idle => some 0
  | .inSendText buf' i => if buf' = buf then some i else none
  | .inWait | .inReceiveByte | .inReceiveText | .inCapture => none

/-- One byte step of `send_text` (rule R173): the next text byte, or after the last one the terminator, which ends it. -/
def opSendText (r : Role) (buf : BufSel) (s : State) : Result :=
  let u := s.block r
  if u.timer.waiting then .next s
  else
    match u.act.sent buf with
    | none => .next s
    | some i =>
      let t := u.text buf
      if i < t.len then .next ((s.setAct r (.inSendText buf (i + 1))).push r.peer (t.byte i.toNat))
      else .next ((s.setAct r .idle).push r.peer 0x00#8)

/-- One byte step of a `receive_text` that has begun (rule R174): blocks while `RXQ` is empty; the terminator ends it; a tenth
text byte is the fault `BufferOverflow`. -/
def receiveTextByte (r : Role) (s : State) : Result :=
  let u := s.block r
  match u.rxq with
  | [] => .next s
  | b :: rest =>
    if b = 0x00#8 then .next (s.setBlock r { u with rxq := rest, pbuf := u.pbuf.terminate, act := .idle })
    else
      match u.pbuf.append b with
      | none => .fault (.bufferOverflow b)
      | some t => .next (s.setBlock r { u with rxq := rest, pbuf := t })

/-- `receive_text` (rule R174): `PLEN <- 0` when it begins (entry 19), then byte steps. -/
def opReceiveText (r : Role) (s : State) : Result :=
  let u := s.block r
  if u.timer.waiting then .next s
  else
    match u.act with
    | .idle => receiveTextByte r (s.setBlock r { u with pbuf := u.pbuf.clear, act := .inReceiveText })
    | .inReceiveText => receiveTextByte r s
    | .inWait | .inReceiveByte | .inSendText _ _ | .inCapture => .next s

/-! ## Steps that issue an operation -/

/-- A shell step that issues a host operation ends when the operation completes (rule R192): then `adv` moves `(ST, STEP)` on. -/
def afterOp (r : Role) (adv : State → State) (o : Result) : Result :=
  match o with
  | .next t => if (t.block r).act = .idle then .next (adv t) else .next t
  | .fault e => .fault e
  | .refused e => .refused e

/-- `delay_1s` as a host operation (rule R138). -/
def opDelay1s (r : Role) (s : State) : Result := opWaitTicks r 1#8 0#16 7811#16 5#3 .cmp s

/-- `delay_15s` as a host operation (rule R139). -/
def opDelay15s (r : Role) (s : State) : Result := opWaitTicks r 2#8 0#16 58593#16 5#3 .cmp s

/-! ## The operation port (rule R103) -/

/-- The port after the foreground's transition on its head word: when the operation has completed, the done strobe is up and the
word leaves the port; while it blocks, the strobe is held back and the word stays. Entry 5. -/
def Block.finishPort (b : Block) : Block :=
  if b.act = .idle then { b with port := b.port.tail, opDone := true } else { b with opDone := false }

/-- `finishPort` on the outcome of an operation of a unit. -/
def finishPort (r : Role) (o : Result) : Result :=
  match o with
  | .next t => .next (t.setBlock r (t.block r).finishPort)
  | .fault e => .fault e
  | .refused e => .refused e

/-- Words placed before those the foreground presents: how a pseudo-instruction's expansion reaches the port (rule R114,
entry 12). -/
def State.presentFirst (s : State) (r : Role) (ws : List Opw) : State :=
  s.setBlock r { s.block r with port := ws ++ (s.block r).port }

/-- The operation words of a list of host operations (rule R104). -/
def opWords (is : List Instr) : List Opw := is.filterMap encodeOpw

end Sys2Proof.Machine
end

