-- ==== Sys2Proof/Machine/Command.lean ====
section
/-! DEFINITION. The command frames and the control-unit shell (file 42_dispatcher.md). The meaning of a command is its next shell
step: the dispatch step in `C_WAIT`, then the steps of its table (entry 13). -/

namespace Sys2Proof.Machine

/-- `(ST, STEP) <- (st, k)` in role `CTRL` (rule R9). -/
def State.ctrlGo (s : State) (st : CtrlState) (k : BitVec 5) : State :=
  { s with ctrlShell := { s.ctrlShell with st := st, step := k } }

/-- `IDX <- i` in role `CTRL`. -/
def State.ctrlSetIdx (s : State) (i : BitVec 4) : State := { s with ctrlShell := { s.ctrlShell with idx := i } }

/-- `PWLEN <- n` (rule R42). -/
def State.setPwlen (s : State) (n : BitVec 4) : State := { s with ctrlShell := { s.ctrlShell with pwlen := n } }

/-- `MOTOR <- m` (rule R43). -/
def State.setMotor (s : State) (m : Motor) : State := { s with ctrlShell := { s.ctrlShell with motor := m } }

/-- `ALARM <- a` (rule R44). -/
def State.setAlarm (s : State) (a : Alarm) : State := { s with ctrlShell := { s.ctrlShell with alarm := a } }

/-- The control unit's shell steps are enabled only when `BOOTED` = 1 and `WAITING` = 0 (rule R190). -/
def State.ctrlEnabled (s : State) : Bool := s.ctrlShell.booted && !s.ctrl.timer.waiting

/-- The dispatch step in `(C_WAIT, 0)`: the opcode byte is consumed and the shell enters the handler's state (rule R191). Blocks
while `RXQ` is empty. -/
def dispatch (st : CtrlState) (s : State) : Result :=
  match s.ctrl.rxq with
  | [] => .next s
  | _ :: rest => .next ({ s with ctrl := { s.ctrl with rxq := rest } }.ctrlGo st 0)

/-- The steps of `C_SETPW` (rule R194). -/
def setpwStep (s : State) : Result :=
  match s.ctrlShell.step.toNat with
  | 0 => afterOp .ctrl (·.ctrlGo .setpw 1) (opReceiveText .ctrl s)
  | 1 => .next ((s.ctrlSetIdx 0).ctrlGo .setpw 2)
  | 2 =>
    let i := s.ctrlShell.idx
    if i = s.ctrl.pbuf.len then .next (s.ctrlGo .setpw 3)
    else .next ((s.storeByte i.toNat (s.ctrl.pbuf.byte i.toNat)).ctrlSetIdx (i + 1))
  | 3 => .next ((s.setPwlen s.ctrl.pbuf.len).ctrlGo .wait 0)
  | _ => .next s

/-- The steps of `C_VERIFY` (rule R196): the stored bytes are read back first, then lengths and bytes compared, and the verdict
sent. -/
def verifyStep (s : State) : Result :=
  match s.ctrlShell.step.toNat with
  | 0 => afterOp .ctrl (·.ctrlGo .verify 1) (opReceiveText .ctrl s)
  | 1 => .next ((s.ctrlSetIdx 0).ctrlGo .verify 2)
  | 2 =>
    let i := s.ctrlShell.idx
    if i = s.ctrlShell.pwlen then .next (s.ctrlGo .verify 3)
    else .next ({ s with ctrl := { s.ctrl with xbuf := s.ctrl.xbuf.setByte i.toNat (s.storedByte i.toNat) } }.ctrlSetIdx (i + 1))
  | 3 =>
    let x := { s.ctrl.xbuf with len := s.ctrlShell.pwlen }
    .next ({ s with ctrl := { s.ctrl with xbuf := x.terminate } }.ctrlGo .verify 4)
  | 4 =>
    let verdict := if textsMatch s.ctrl.pbuf s.ctrl.xbuf then 0x31#8 else 0x30#8
    afterOp .ctrl (·.ctrlGo .wait 0) (opSendByte .ctrl verdict s)
  | _ => .next s

/-- The steps of `C_OPEN` (rule R198). -/
def openStep (s : State) : Result :=
  match s.ctrlShell.step.toNat with
  | 0 => .next ((s.setMotor .forward).ctrlGo .open 1)
  | 1 => afterOp .ctrl (·.ctrlGo .open 2) (opDelay15s .ctrl s)
  | 2 => .next ((s.setMotor .stopped).ctrlGo .open 3)
  | 3 => afterOp .ctrl (·.ctrlGo .open 4) (opDelay1s .ctrl s)
  | 4 => afterOp .ctrl (·.ctrlGo .open 5) (opDelay1s .ctrl s)
  | 5 => afterOp .ctrl (·.ctrlGo .open 6) (opDelay1s .ctrl s)
  | 6 => .next ((s.setMotor .reverse).ctrlGo .open 7)
  | 7 => afterOp .ctrl (·.ctrlGo .open 8) (opDelay15s .ctrl s)
  | 8 => .next ((s.setMotor .stopped).ctrlGo .wait 0)
  | _ => .next s

/-- The steps of `C_LOCK` (rule R200). -/
def lockStep (s : State) : Result :=
  match s.ctrlShell.step.toNat with
  | 0 => .next ((s.setAlarm .on).ctrlGo .lock 1)
  | 1 => afterOp .ctrl (·.ctrlGo .lock 2) (opDelay15s .ctrl s)
  | 2 => afterOp .ctrl (·.ctrlGo .lock 3) (opDelay15s .ctrl s)
  | 3 => afterOp .ctrl (·.ctrlGo .lock 4) (opDelay15s .ctrl s)
  | 4 => afterOp .ctrl (·.ctrlGo .lock 5) (opDelay15s .ctrl s)
  | 5 => .next ((s.setAlarm .off).ctrlGo .wait 0)
  | _ => .next s

/-- A command's next shell step: dispatch in `C_WAIT`, its own table in its own state; in another command's state it has no turn
(entry 13). -/
def commandStep (st : CtrlState) (own : State → Result) (s : State) : Result :=
  if s.ctrlEnabled then
    if s.ctrlShell.st = .wait then (if s.ctrlShell.step = 0 then dispatch st s else .next s)
    else if s.ctrlShell.st = st then own s
    else .next s
  else .next s

/-- `cmd_setpw` (rule R194). -/
def execCmdSetpw (s : State) : Result := commandStep .setpw setpwStep s

/-- `cmd_verify` (rule R196). -/
def execCmdVerify (s : State) : Result := commandStep .verify verifyStep s

/-- `cmd_open` (rule R198). -/
def execCmdOpen (s : State) : Result := commandStep .open openStep s

/-- `cmd_lock` (rule R200). -/
def execCmdLock (s : State) : Result := commandStep .lock lockStep s

/-- `cmd_ignored` (rule R202): the byte is consumed, `(C_WAIT, 0)` again, nothing else. -/
def execCmdIgnored (_b : Byte) (s : State) : Result :=
  if s.ctrlEnabled ∧ s.ctrlShell.st = .wait ∧ s.ctrlShell.step = 0 then dispatch .wait s else .next s

end Sys2Proof.Machine
end

