-- ==== Sys2Proof/Machine/Framer.lean ====
section
/-! DEFINITION. The meanings of the Command Framer's host operations, issued by the moving unit's foreground (rules R171 to
R174). -/

namespace Sys2Proof.Machine

/-- `send_byte` (rule R171). -/
def execSendByte (b : Byte) (s : State) : Result := opSendByte s.cur b s

/-- `receive_byte` (rule R172). -/
def execReceiveByte (s : State) : Result := opReceiveByte s.cur s

/-- `send_text` (rule R173). -/
def execSendText (buf : BufSel) (s : State) : Result := opSendText s.cur buf s

/-- `receive_text` (rule R174). -/
def execReceiveText (s : State) : Result := opReceiveText s.cur s

end Sys2Proof.Machine
end

