-- ==== Sys2Proof/Machine/Pseudo.lean ====
section
/-! DEFINITION. The pseudo-instructions, issued by the moving unit's foreground (rules R112, R114, R138 to R140). One of a single
host operation is that operation. One of several puts its expansion's words on the operation port and takes the first
transition; the port's later transitions run the rest (entry 12). -/

namespace Sys2Proof.Machine

/-- `delay_1s` (rule R138). -/
def execDelay1s (s : State) : Result := opDelay1s s.cur s

/-- `delay_15s` (rule R139). -/
def execDelay15s (s : State) : Result := opDelay15s s.cur s

/-- An expansion of several operations: its words go first on the port, and `first`, the operation of the first word, takes its
transition there. -/
def runExpansion (r : Role) (i : Instr) (first : State → Result) (s : State) : Result :=
  if (s.block r).ready then finishPort r (first (s.presentFirst r (opWords (expand i)))) else .next s

/-- `delay_60s`: `delay_15s` four times (rule R140). -/
def execDelay60s (s : State) : Result := runExpansion s.cur .delay60s (opDelay15s s.cur) s

/-- `delay_3s`: `delay_1s` three times (rule R140). -/
def execDelay3s (s : State) : Result := runExpansion s.cur .delay3s (opDelay1s s.cur) s

/-- `send_frame`: `send_byte opcode`, then `send_text buf` where a buffer is given (rules R112, R114). -/
def execSendFrame (opcode : Byte) (buf : Option BufSel) (s : State) : Result :=
  runExpansion s.cur (.sendFrame opcode buf) (opSendByte s.cur opcode) s

end Sys2Proof.Machine
end

