-- ==== Sys2Proof/Machine/Reserved.lean ====
section
/-! DEFINITION. The reserved `OPSEL` values: a word that selects no operation is refused (rule R111 b, U7). -/

namespace Sys2Proof.Machine

/-- What every reserved `OPSEL` value answers (rules R111 b, R262). -/
def refuseReserved : Result := .refused .reservedOp

/-- `OPSEL` 0x0 (rule R111 b). -/
def execReservedOp0 (_s : State) : Result := refuseReserved

/-- `OPSEL` 0x5 (rule R111 b). -/
def execReservedOp5 (_s : State) : Result := refuseReserved

/-- `OPSEL` 0x6 (rule R111 b). -/
def execReservedOp6 (_s : State) : Result := refuseReserved

/-- `OPSEL` 0x7 (rule R111 b). -/
def execReservedOp7 (_s : State) : Result := refuseReserved

/-- `OPSEL` 0xC (rule R111 b). -/
def execReservedOpC (_s : State) : Result := refuseReserved

/-- `OPSEL` 0xD (rule R111 b). -/
def execReservedOpD (_s : State) : Result := refuseReserved

/-- `OPSEL` 0xE (rule R111 b). -/
def execReservedOpE (_s : State) : Result := refuseReserved

/-- `OPSEL` 0xF (rule R111 b). -/
def execReservedOpF (_s : State) : Result := refuseReserved

end Sys2Proof.Machine
end

