-- ==== Sys2Proof/Machine/Response.lean ====
section
/-! DEFINITION. The responses, consumed by the HMI shell: `H_VERIFY` steps 4 to 7 (rules R110, R226, R227; entry 13). -/

namespace Sys2Proof.Machine

/-- `(ST, STEP) <- (st, k)` in role `HMI` (rule R9). -/
def State.hmiGo (s : State) (st : HmiState) (k : BitVec 5) : State :=
  { s with hmiShell := { s.hmiShell with st := st, step := k } }

/-- The HMI unit's shell steps are enabled only when `BOOTED` = 1 and `WAITING` = 0 (rule R220). -/
def State.hmiEnabled (s : State) : Bool := s.hmiShell.booted && !s.hmi.timer.waiting

/-- `RESP <- receive_byte` of a response byte (rule R226 step 4). Blocks while `RXQ` is empty. -/
def takeResponse (resp : Byte) (s : State) : Result :=
  match s.hmi.rxq with
  | [] => .next s
  | _ :: rest =>
    .next ({ s with hmi := { s.hmi with rxq := rest }, hmiShell := { s.hmiShell with resp := resp } }.hmiGo .verify 5)

/-- The decision on a match (rule R227). -/
def decideMatch (s : State) : State :=
  match s.hmiShell.action with
  | .open => s.hmiGo .opening 0
  | .change => s.hmiGo .setting 0

/-- The decision on a failed trial: `TRIALS` falls by 1, never below 0 (rules R40, R227). -/
def decideFail (s : State) : State :=
  let n : BitVec 2 := if s.hmiShell.trials = 0 then 0 else s.hmiShell.trials - 1
  let s' := { s with hmiShell := { s.hmiShell with trials := n } }
  if n = 0 then s'.hmiGo .locked 0 else s'.hmiGo .verify 0

/-- A response's next shell step: received in step 4, shown in step 5 and for the delay of step 6, decided on in step 7. -/
def responseStep (resp : Byte) (msg : DispMsg) (decision : State → State) (s : State) : Result :=
  if s.hmiEnabled ∧ s.hmiShell.st = .verify then
    match s.hmiShell.step.toNat with
    | 4 => takeResponse resp s
    | 5 => .next ((s.show msg).hmiGo .verify 6)
    | 6 => afterOp .hmi (·.hmiGo .verify 7) (opDelay1s .hmi s)
    | 7 => .next (decision s)
    | _ => .next s
  else .next s

/-- `rsp_match` (rules R110, R226, R227). -/
def execRspMatch (s : State) : Result := responseStep 0x31#8 .ok decideMatch s

/-- `rsp_nomatch` (rules R110, R226, R227): any byte other than 0x31 is a failed trial. -/
def execRspNomatch (b : Byte) (s : State) : Result := responseStep b .fail decideFail s

end Sys2Proof.Machine
end

