-- ==== Sys2Proof/Machine/Timer.lean ====
section
/-! DEFINITION. The meanings of the Tick Timer's host operations, issued by the moving unit's foreground (rules R131 to R134). -/

namespace Sys2Proof.Machine

/-- `configure` (rule R131). -/
def execConfigure (a b : Count) (ps : Psel) (m : TimerMode) (s : State) : Result := opConfigure s.cur a b ps m s

/-- `register_callback` (rule R132). -/
def execRegisterCallback (fn : Byte) (s : State) : Result := opRegisterCallback s.cur fn s

/-- `disable` (rule R133). -/
def execDisable (s : State) : Result := opDisable s.cur s

/-- `wait_ticks` (rule R134). -/
def execWaitTicks (n : Tick) (a b : Count) (ps : Psel) (m : TimerMode) (s : State) : Result :=
  opWaitTicks s.cur n a b ps m s

end Sys2Proof.Machine
end

