-- ==== Sys2Proof/Machine/Dispatch.lean ====
section
/-! DEFINITION. One arm per instruction. -/

namespace Sys2Proof.Machine

/-- One transition of an instruction. -/
def exec (i : Instr) (s : State) : Host.Outcome State Fault Refusal :=
  match i with
  | .configure a b ps m => Sys2Proof.Machine.execConfigure a b ps m s
  | .registerCallback fn => Sys2Proof.Machine.execRegisterCallback fn s
  | .disable => Sys2Proof.Machine.execDisable s
  | .waitTicks n a b ps m => Sys2Proof.Machine.execWaitTicks n a b ps m s
  | .sendByte b => Sys2Proof.Machine.execSendByte b s
  | .receiveByte => Sys2Proof.Machine.execReceiveByte s
  | .sendText buf => Sys2Proof.Machine.execSendText buf s
  | .receiveText => Sys2Proof.Machine.execReceiveText s
  | .reservedOp0 => Sys2Proof.Machine.execReservedOp0 s
  | .reservedOp5 => Sys2Proof.Machine.execReservedOp5 s
  | .reservedOp6 => Sys2Proof.Machine.execReservedOp6 s
  | .reservedOp7 => Sys2Proof.Machine.execReservedOp7 s
  | .reservedOpC => Sys2Proof.Machine.execReservedOpC s
  | .reservedOpD => Sys2Proof.Machine.execReservedOpD s
  | .reservedOpE => Sys2Proof.Machine.execReservedOpE s
  | .reservedOpF => Sys2Proof.Machine.execReservedOpF s
  | .cmdSetpw => Sys2Proof.Machine.execCmdSetpw s
  | .cmdVerify => Sys2Proof.Machine.execCmdVerify s
  | .cmdOpen => Sys2Proof.Machine.execCmdOpen s
  | .cmdLock => Sys2Proof.Machine.execCmdLock s
  | .cmdIgnored b => Sys2Proof.Machine.execCmdIgnored b s
  | .rspMatch => Sys2Proof.Machine.execRspMatch s
  | .rspNomatch b => Sys2Proof.Machine.execRspNomatch b s
  | .delay1s => Sys2Proof.Machine.execDelay1s s
  | .delay15s => Sys2Proof.Machine.execDelay15s s
  | .delay60s => Sys2Proof.Machine.execDelay60s s
  | .delay3s => Sys2Proof.Machine.execDelay3s s
  | .sendFrame opcode buf => Sys2Proof.Machine.execSendFrame opcode buf s

end Sys2Proof.Machine
end

