-- ==== Sys2Proof/Machine/Hmi.lean ====
section
/-! DEFINITION. The HMI shell's own steps (file 43_hmi_shell.md): menu, capture, sending the frames, lockout, opening, setting. The
steps that consume a response, `H_VERIFY` 4 to 7, are the meanings of the responses. -/

namespace Sys2Proof.Machine

/-- A `Key()` call is open, and `ENV` may answer it (rules R52, R223, R224): the shell is the running foreground and stands in
`H_CHOICE` or inside a capture. Entry 14. -/
def State.keyCallOpen (s : State) : Bool :=
  s.hmi.fore == .shell && s.hmiEnabled && s.key == none
    && ((s.hmiShell.st == .choice && s.hmiShell.step == 0) || s.hmi.act == .inCapture)

/-- `ENV` supplies a key; one pressed while no call is open is not seen (N14). Entries 14, 15. -/
def supplyKey (k : Byte) (s : State) : State := if s.keyCallOpen then { s with key := some k } else s

/-- `H_CHOICE` (rule R223): blocks on `Key()`; a menu key is remembered and starts an access request with three trials; any other
key prompts again. -/
def choiceStep (s : State) : Result :=
  match s.key with
  | none => .next s
  | some k =>
    let s' := { s with key := none }
    let start (a : Action) : State := { s' with hmiShell := { s'.hmiShell with action := a, trials := 3 } }.hmiGo .verify 0
    if k = s.params.keyOpen then .next (start .open)
    else if k = s.params.keyChange then .next (start .change)
    else .next (s'.show .menu)

/-- `Disp(prompt); capture(BUF)` (rules R224, R226, R230): the row begins with the prompt and `LEN <- 0`; then one `Key()` call a
step; the terminator key ends it; a tenth key is the fault `BufferOverflow`. Entry 19. -/
def captureStep (buf : BufSel) (prompt : DispMsg) (adv : State → State) (s : State) : Result :=
  let u := s.hmi
  let t := u.text buf
  match u.act with
  | .idle => .next ({ s with hmi := { u.setText buf t.clear with act := .inCapture } }.show prompt)
  | .inCapture =>
    match s.key with
    | none => .next s
    | some k =>
      if k = 13#8 then .next (adv { s with key := none, hmi := { u.setText buf t.terminate with act := .idle } })
      else
        match t.append k with
        | none => .fault (.bufferOverflow k)
        | some t' => .next ({ s with key := none, hmi := u.setText buf t' }.show .mask)
  | .inWait | .inReceiveByte | .inSendText _ _ | .inReceiveText => .next s

/-- The HMI shell's step tables (rules R222, R223, R226, R228, R229, R230). Places no table has, and those of the responses,
have no step of their own. -/
def hmiShellStep (s : State) : Result :=
  match s.hmiShell.st, s.hmiShell.step.toNat with
  | .idle, 0 => .next ((s.show .menu).hmiGo .choice 0)
  | .choice, 0 => choiceStep s
  | .verify, 0 => captureStep .pbuf .enter (·.hmiGo .verify 1) s
  | .verify, 1 => afterOp .hmi (·.hmiGo .verify 2) (opSendByte .hmi 0x31#8 s)
  | .verify, 2 => afterOp .hmi (·.hmiGo .verify 3) (opSendText .hmi .pbuf s)
  | .verify, 3 => afterOp .hmi (·.hmiGo .verify 4) (opDelay1s .hmi s)
  | .locked, 0 => afterOp .hmi (·.hmiGo .locked 1) (opSendByte .hmi 0x33#8 s)
  | .locked, 1 => .next ((s.show .locked).hmiGo .locked 2)
  | .locked, 2 => afterOp .hmi (·.hmiGo .locked 3) (opDelay15s .hmi s)
  | .locked, 3 => afterOp .hmi (·.hmiGo .locked 4) (opDelay15s .hmi s)
  | .locked, 4 => afterOp .hmi (·.hmiGo .locked 5) (opDelay15s .hmi s)
  | .locked, 5 => afterOp .hmi (·.hmiGo .idle 0) (opDelay15s .hmi s)
  | .opening, 0 => afterOp .hmi (·.hmiGo .opening 1) (opSendByte .hmi 0x32#8 s)
  | .opening, 1 => .next ((s.show .unlocking).hmiGo .opening 2)
  | .opening, 2 => afterOp .hmi (·.hmiGo .opening 3) (opDelay15s .hmi s)
  | .opening, 3 => .next ((s.show (.count 3)).hmiGo .opening 4)
  | .opening, 4 => afterOp .hmi (·.hmiGo .opening 5) (opDelay1s .hmi s)
  | .opening, 5 => .next ((s.show (.count 2)).hmiGo .opening 6)
  | .opening, 6 => afterOp .hmi (·.hmiGo .opening 7) (opDelay1s .hmi s)
  | .opening, 7 => .next ((s.show (.count 1)).hmiGo .opening 8)
  | .opening, 8 => afterOp .hmi (·.hmiGo .opening 9) (opDelay1s .hmi s)
  | .opening, 9 => .next ((s.show .locking).hmiGo .opening 10)
  | .opening, 10 => afterOp .hmi (·.hmiGo .idle 0) (opDelay15s .hmi s)
  | .setting, 0 => captureStep .pbuf .enter (·.hmiGo .setting 1) s
  | .setting, 1 => captureStep .xbuf .confirm (·.hmiGo .setting 2) s
  | .setting, 2 =>
    if textsMatch s.hmi.pbuf s.hmi.xbuf then .next (s.hmiGo .setting 4)
    else .next ((s.show .mismatch).hmiGo .setting 3)
  | .setting, 3 => afterOp .hmi (·.hmiGo .setting 0) (opDelay1s .hmi s)
  | .setting, 4 => afterOp .hmi (·.hmiGo .setting 5) (opSendByte .hmi 0x30#8 s)
  | .setting, 5 => afterOp .hmi (·.hmiGo .setting 6) (opSendText .hmi .pbuf s)
  | .setting, 6 => .next ((s.show .saved).hmiGo .setting 7)
  | .setting, 7 => afterOp .hmi (·.hmiGo .idle 0) (opDelay1s .hmi s)
  | _, _ => .next s

end Sys2Proof.Machine
end

