-- ==== Sys2Proof/Machine/Foreground.lean ====
section
/-! DEFINITION. The foreground's transition: which instruction it belongs to, the boot step, the operation port, the shells (rules
R10, R48, R103, R190, R220, R303). -/

namespace Sys2Proof.Machine

/-- The boot step, the first transition of the shell after reset: `register_callback tick_inc; BOOTED <- 1` (rule R303). -/
def bootStep (r : Role) (s : State) : Result :=
  if (s.block r).ready then afterOp r (·.setBooted r) (opRegisterCallback r 0x01#8 s) else .next s

/-- The instruction the control unit's shell is at: the opcode byte at the head of `RXQ` in `C_WAIT`, else the command whose
handler runs (rules R191, R203). -/
def ctrlInstr (s : State) : Option Instr :=
  match s.ctrlShell.st with
  | .wait => s.ctrl.rxq.head?.map decodeCmd
  | .setpw => some .cmdSetpw
  | .verify => some .cmdVerify
  | .open => some .cmdOpen
  | .lock => some .cmdLock

/-- The response the HMI shell is at: the byte at the head of `RXQ` in `H_VERIFY` step 4, the byte received in steps 5 to 7 (rules
R226, R227). -/
def hmiInstr (s : State) : Option Instr :=
  if s.hmiShell.st = .verify then
    if s.hmiShell.step.toNat = 4 then s.hmi.rxq.head?.map decodeRsp
    else if 5 ≤ s.hmiShell.step.toNat ∧ s.hmiShell.step.toNat ≤ 7 then some (decodeRsp s.hmiShell.resp)
    else none
  else none

/-- A shell's transition once booted: one transition of the instruction it is at; the HMI's own step where it is at none; nothing
where it is blocked (rules R191, R192, R220). -/
def shellStep (r : Role) (s : State) : Result :=
  match r with
  | .ctrl =>
    match ctrlInstr s with
    | some i => exec i s
    | none => .next s
  | .hmi =>
    match hmiInstr s with
    | some i => exec i s
    | none => hmiShellStep s

/-- A transition of a unit's foreground. While `WAITING` = 1 it has none (rule R31). A word on the operation port is run (rule
R103); with none, firmware has nothing to do, and a shell boots and then takes its steps. -/
def foregroundStep (r : Role) (s : State) : Result :=
  if (s.timer r).waiting then .next s
  else
    match (s.block r).port with
    | w :: _ => finishPort r (exec (decodeOpw w) s)
    | [] =>
      match (s.block r).fore with
      | .firmware => .next s
      | .shell => if s.booted r then shellStep r s else bootStep r s

end Sys2Proof.Machine
end

