-- ==== Sys2Proof/Machine/Reset.lean ====
section
/-! DEFINITION. The reset event of one unit (rules R57, R300, R305). -/

namespace Sys2Proof.Machine

/-- A text buffer after a reset event: length 0, its bytes free values (rule R57, U5). Entry 6. -/
def resetText (draw first : Nat) : Text :=
  { bytes := Vector.ofFn fun i => Config.resetByte draw (first + i.val), len := 0 }

/-- A unit's instance after a reset event, with the foreground it restarts with (rules R57, R300). -/
def resetBlock (draw : Nat) (f : Foreground) : Block :=
  { Block.reset with pbuf := resetText draw 0, xbuf := resetText draw 10, fore := f }

/-- The reset of one unit, one atomic transition: every piece of that unit's state takes its reset value; `STORE`, the other unit
and the bytes already on their way to it stay (rule R300). The unspecified values are drawn (entries 6, 7); the key answered to a
call that no longer stands is gone (entry 23). -/
def State.resetUnit (s : State) (r : Role) (f : Foreground) : State :=
  match r with
  | .hmi =>
    { s with hmi := resetBlock s.draws f, hmiShell := HmiShell.reset, key := none, draws := s.draws + 1 }
  | .ctrl =>
    { s with
      ctrl := resetBlock s.draws f
      ctrlShell := { CtrlShell.reset with pwlen := BitVec.ofNat 4 (Config.resetPwlen s.draws).val }
      draws := s.draws + 1 }

end Sys2Proof.Machine
end

