-- ==== Sys2Proof/Machine/Agents.lean ====
section
/-! DEFINITION. One turn of one agent, and which agent's turn it is (rules R10, R81). -/

namespace Sys2Proof.Machine

/-- Firmware presents an operation word: it joins those the port will be shown (rule R103). A unit whose foreground is the shell
does not use the port from outside (D14). Entry 5. -/
def presentWord (r : Role) (w : Opw) (s : State) : State :=
  let u := s.block r
  if u.fore = .firmware then s.setBlock r { u with port := u.port ++ [w] } else s

/-- One turn of one agent (rule R10). A turn that is not enabled changes nothing. -/
def takeTurn (e : Event) (s : State) : Result :=
  match e with
  | .fg r => foregroundStep r { s with cur := r }
  | .clk r => .next (s.setTimer r (s.timer r).clockEvent)
  | .irq r => .next (s.setTimer r (s.timer r).takeInterrupt)
  | .key k => .next (supplyKey k s)
  | .present r w => .next (presentWord r w s)
  | .reset r f => .next (s.resetUnit r f)

/-- The next transition under an arbiter: the agenda's first event, or, where the agenda is empty, the arbiter's next one. Each such
turn takes exactly one place of the arbiter, whatever the turn does, so that no place is passed over. Entry 2. -/
def nextTransitionBy (arb : Nat → Event) (s : State) : Result :=
  match s.agenda with
  | e :: rest => takeTurn e { s with agenda := rest }
  | [] => takeTurn (arb s.turns) { s with turns := s.turns + 1 }

/-- The next transition of the machine: its arbiter is a free value, so that every interleaving is a run (rules R10, R81). Entry 2. -/
def nextTransition (s : State) : Result := nextTransitionBy Config.arbiter s

end Sys2Proof.Machine
end

