-- ==== Sys2Proof/Machine/Fetch.lean ====
section
/-! DEFINITION. Placing an instruction where the next step fetches it (entry 4). -/

namespace Sys2Proof.Machine

/-- An operation word presented first on the moving unit's operation port by firmware that is free to issue it, and that
foreground's turn next (rule R103). -/
def State.placeOpw (s : State) (w : Opw) : State :=
  let u := s.block s.cur
  { s.setBlock s.cur { u with port := w :: u.port, act := .idle, fore := .firmware, timer := { u.timer with waiting := false } } with
    agenda := .fg s.cur :: s.agenda }

/-- A byte at the head of the control unit's `RXQ`, its shell booted (rule R303) and blocked at the dispatch step (rule R191), and
its foreground's turn next. -/
def State.placeOpcode (s : State) (b : Byte) : State :=
  { s with
    ctrl := { s.ctrl with
      rxq := b :: s.ctrl.rxq, port := [], act := .idle, fore := .shell
      timer := { s.ctrl.timer with cb := .tickInc, waiting := false } }
    ctrlShell := { s.ctrlShell with st := .wait, step := 0, booted := true }
    agenda := .fg .ctrl :: s.agenda }

/-- The instruction of the table whose bits are `w`, placed: 48 bits are an operation word, 8 bits an opcode byte on the link. -/
def State.placeWord (s : State) (nbits w : Nat) : State :=
  match nbits with
  | 48 => s.placeOpw (BitVec.ofNat 48 w)
  | 8 => s.placeOpcode (BitVec.ofNat 8 w)
  | _ => s

end Sys2Proof.Machine
end

