-- ==== Sys2Proof/Machine/Step.lean ====
section
/-! DEFINITION. One step of the machine. -/

namespace Sys2Proof.Machine

/-- One transition of one agent (rule R10). -/
def step (s : State) : Host.Outcome State Fault Refusal := nextTransition s

/-- The state with an instruction of the table placed where the next step fetches it (entry 4). -/
def State.withFetchWord (s : State) (nbits w : Nat) : State := s.placeWord nbits w

end Sys2Proof.Machine
end

