-- ==== Sys2Proof/Safety.lean ====
section
/-! DEFINITION. What counts as a sound state and a safe run, in the terms the statements use. -/

namespace Sys2Proof.Machine

/-! ## The invariants of the timer -/

/-- The invariants of the Tick Timer group (rule R33). -/
structure Timer.Inv (t : Timer) : Prop where
  /-- (a) `RUN` = `IE`. -/
  runIe : t.run = t.ie
  /-- (b) `WAITING` = 1 implies `RUN` = 1 and `TICKS` < `WTARGET`. -/
  waitRuns : t.waiting = true → t.run = true ∧ t.ticks < t.wtarget
  /-- (c) `IF` = 1 implies `RUN` = 1. -/
  pendingRuns : t.pending = true → t.run = true
  /-- (d) `RUN` = 1 implies `PSEL` is in 1 to 5. -/
  runPsel : t.run = true → 1 ≤ t.psel.toNat ∧ t.psel.toNat ≤ 5
  /-- (e) `PDIV` < `P(PSEL)` whenever `RUN` = 1. -/
  runPdiv : t.run = true → ∀ p, divisor t.psel = some p → t.pdiv.toNat < p

/-! ## The invariants of one unit -/

/-- The invariants of one LTT instance: lengths in 0 to 9 (rules R36, R37), a wait in progress is the foreground's operation (rule
R31), a shell's port is not used from outside (D14). -/
structure Block.Inv (b : Block) : Prop where
  /-- Rule R33. -/
  timer : b.timer.Inv
  /-- `PLEN` ≤ 9. -/
  plen : b.pbuf.len.toNat ≤ 9
  /-- `XLEN` ≤ 9. -/
  xlen : b.xbuf.len.toNat ≤ 9
  /-- The foreground that waits is inside `wait_ticks`. -/
  waitAct : b.timer.waiting = true → b.act = .inWait
  /-- The shell's port is empty. -/
  shellPort : b.fore = .shell → b.port = []

/-- `MOTOR` at a sequence position (rules R43, R198). -/
def motorAt (st : CtrlState) (step : BitVec 5) : Motor :=
  match st with
  | .open =>
    if step.toNat = 1 ∨ step.toNat = 2 then .forward
    else if step.toNat = 7 ∨ step.toNat = 8 then .reverse
    else .stopped
  | .wait | .setpw | .verify | .lock => .stopped

/-- `ALARM` at a sequence position (rules R44, R200). -/
def alarmAt (st : CtrlState) (step : BitVec 5) : Alarm :=
  match st with
  | .lock => if step.toNat = 0 then .off else .on
  | .wait | .setpw | .verify | .open => .off

/-- The invariants of the control unit's shell. -/
structure CtrlShell.Inv (c : CtrlShell) (b : Block) : Prop where
  /-- `STEP` never exceeds the last step number of its state (rule R39). -/
  stepBound : c.step.toNat ≤ c.st.lastStep
  /-- A booted shell is the unit's foreground and its callback is registered (rule R303). -/
  booted : c.booted = true → b.fore = .shell ∧ b.timer.cb = .tickInc
  /-- No shell step is taken before the boot step (rules R39, R303). -/
  entry : c.booted = false → c.st = .wait ∧ c.step = 0
  /-- `PWLEN` ≤ 9 (rule R42). -/
  pwlen : c.pwlen.toNat ≤ 9
  /-- The copy loop stays inside the text (rule R194). -/
  copyIdx : c.st = .setpw → c.step = 2 → c.idx ≤ b.pbuf.len
  /-- The read-back loop stays inside the stored password (rule R196). -/
  readIdx : c.st = .verify → c.step = 2 → c.idx ≤ c.pwlen
  /-- The actuator output follows the sequence position (rules R43, R198). -/
  motor : c.motor = motorAt c.st c.step
  /-- The alarm output follows the sequence position (rules R44, R200). -/
  alarm : c.alarm = alarmAt c.st c.step

/-- The invariants of the HMI unit's shell. -/
structure HmiShell.Inv (h : HmiShell) (b : Block) : Prop where
  /-- `STEP` never exceeds the last step number of its state (rule R39). -/
  stepBound : h.step.toNat ≤ h.st.lastStep
  /-- A booted shell is the unit's foreground and its callback is registered (rule R303). -/
  booted : h.booted = true → b.fore = .shell ∧ b.timer.cb = .tickInc
  /-- No shell step is taken before the boot step (rules R39, R303). -/
  entry : h.booted = false → h.st = .setting ∧ h.step = 0
  /-- A trial round has a trial left (rules R40, R227). -/
  trials : h.st = .verify → h.trials ≠ 0

/-- The block touches only the password region `PW_BASE` to `PW_BASE + 8` (rules R70, R72). -/
def inRegion (p : Params) (a : Nat) : Prop := p.pwBase ≤ a ∧ a ≤ p.pwBase + 8

/-- The invariants of the system. -/
structure State.Inv (s : State) : Prop where
  /-- Rule R7. -/
  params : s.params.wf = true
  hmi : s.hmi.Inv
  ctrl : s.ctrl.Inv
  hmiShell : s.hmiShell.Inv s.hmi
  ctrlShell : s.ctrlShell.Inv s.ctrl
  /-- The canonical form of `STORE`. -/
  store : Memory.wf s.store
  /-- Only the password region has been written. -/
  region : ∀ c ∈ s.store, inRegion s.params c.1

/-! ## Runs -/

/-- A state reached from another by steps that answer a next state. -/
inductive Reaches (s : State) : State → Prop where
  | refl : Reaches s s
  | tail {t u : State} : Reaches s t → step t = .next u → Reaches s u

/-- A run may stop with the one fault of rule R262 or with a refusal of its closed list; a safe outcome does neither. -/
def isNext (o : Result) : Bool :=
  match o with
  | .next _ => true
  | .fault _ => false
  | .refused _ => false

/-- The agents whose turns weak fairness speaks of (rule R10): each unit's `FG`, `CLK` and `IRQ`; `PEER` is the other unit's. `ENV` is
not among them: a key may never come (U17). -/
def fairAgents : List Event := [.fg .hmi, .clk .hmi, .irq .hmi, .fg .ctrl, .clk .ctrl, .irq .ctrl]

/-- The liveness assumption of rule R10, of an arbiter: every agent has its turn again and again. A premise a statement about liveness
may take of the machine's arbiter, never a fact of the model (entry 27). Since each turn the agenda does not fix takes one place of the
arbiter, a transition that stays enabled is then taken (`fairArbiter_turn_comes` of Laws/Schedule.lean). -/
def FairArbiter (arb : Nat → Event) : Prop := ∀ e ∈ fairAgents, ∀ n, ∃ m, n ≤ m ∧ arb m = e

/-- `k` transitions under an arbiter, stopping at the first fault or refusal (rules R10, R81). -/
def runBy (arb : Nat → Event) : Nat → State → Result
  | 0, s => .next s
  | k + 1, s =>
    match nextTransitionBy arb s with
    | .next t => runBy arb k t
    | .fault e => .fault e
    | .refused e => .refused e

/-- One transition of an instruction `k` times over: how an instruction of several transitions runs when no other agent moves in
between (rule R76). -/
def execTimes : Nat → Instr → State → Result
  | 0, _, s => .next s
  | k + 1, i, s =>
    match exec i s with
    | .next t => execTimes k i t
    | .fault e => .fault e
    | .refused e => .refused e

/-- `k` count events in a row (rule R136). -/
def countEvents : Nat → Timer → Timer
  | 0, t => t
  | k + 1, t => countEvents k t.countEvent

/-- `k` clock events in a row (rule R135). -/
def clockEvents : Nat → Timer → Timer
  | 0, t => t
  | k + 1, t => clockEvents k t.clockEvent

/-- What the hardware alone does to a timer: a turn of `CLK` or of `IRQ`. -/
inductive TimerTurn where
  | clk
  | irq
deriving DecidableEq, Repr

/-- A timer after turns of `CLK` and `IRQ` in any order, with the number of handler steps taken (rules R135, R266). -/
def timerRun : List TimerTurn → Timer → Timer × Nat
  | [], t => (t, 0)
  | .clk :: rest, t => timerRun rest t.clockEvent
  | .irq :: rest, t =>
    let (t', k) := timerRun rest t.takeInterrupt
    (t', if t.irqLine then k + 1 else k)

/-- The handler steps a unit takes in `k` steps of the machine: its handler's turns that find `IF` = 1 and `IE` = 1 (rule R266). -/
def handlerSteps (r : Role) : Nat → State → Nat
  | 0, _ => 0
  | k + 1, s =>
    match step s with
    | .next t => (if s.agenda.head? = some (.irq r) ∧ (s.timer r).irqLine = true then 1 else 0) + handlerSteps r k t
    | .fault _ => 0
    | .refused _ => 0

/-- The turns of one whole wait of a delay profile, each firing handled at once (rules R134, R138, R139): for each of `n` firings
(`b` + 1) × 1024 clock events and the handler, then the foreground's return from the wait and its next transition. -/
def waitTurns (r : Role) (n : Nat) (b : Count) : List Event :=
  (List.replicate n (List.replicate ((b.toNat + 1) * 1024) (.clk r) ++ [.irq r])).flatten ++ [.fg r, .fg r]

/-! ## Turns and outcomes in the terms of the rules -/

/-- The state in which a foreground's turn acts: the event has left the agenda and the unit is the moving one. -/
def State.turn (s : State) (r : Role) (rest : List Event) : State := { s with agenda := rest, cur := r }

/-- It is the turn of a unit's foreground, which is its booted shell, free to move (rules R190, R220). -/
structure ShellTurn (s : State) (r : Role) (rest : List Event) : Prop where
  agenda : s.agenda = .fg r :: rest
  fore : (s.block r).fore = .shell
  port : (s.block r).port = []
  booted : s.booted r = true
  waiting : (s.timer r).waiting = false

/-- The timer group in which a `delay_1s` or `delay_15s` waits (rules R134, R138, R139): `configure 0, b, 5, cmp` has armed it, and
the wait is for `n` ticks. -/
def Timer.delaying (t : Timer) (n : Tick) (b : Count) : Timer :=
  { t with
    count := 0, compare := b, psel := 5, mode := .cmp, pdiv := 0, run := true, ie := true, pending := false
    wtarget := n, waiting := true }

/-- An operation the foreground issues: a host operation or a pseudo-instruction of such (rules R6, R114). -/
def isIssued : Instr → Bool
  | .configure _ _ _ _ | .registerCallback _ | .disable | .waitTicks _ _ _ _ _ => true
  | .sendByte _ | .receiveByte | .sendText _ | .receiveText => true
  | .delay1s | .delay15s | .delay60s | .delay3s | .sendFrame _ _ => true
  | .reservedOp0 | .reservedOp5 | .reservedOp6 | .reservedOp7 | .reservedOpC | .reservedOpD | .reservedOpE | .reservedOpF => false
  | .cmdSetpw | .cmdVerify | .cmdOpen | .cmdLock | .cmdIgnored _ | .rspMatch | .rspNomatch _ => false

/-- The text in a buffer: the bytes below its length register. -/
def Text.content (t : Text) : List Byte := (List.range t.len.toNat).map t.byte

end Sys2Proof.Machine
end

