-- ==== Sys2Proof/Certificates/Slice0/Obligations.lean ====
section
/-! DEFINITION. The statements for the provers, each a `def Obligations.<Name> : Prop`. -/

open Sys2Proof Sys2Proof.Machine

/-! ## Encoding (file 30_encoding.md) -/

/-- Decode and encode agree: decoding the operation word of any host operation or reserved `OPSEL`, whatever its operands, gives it back, and
for every well-formed instruction of any stream decoding its words gives its expansion: itself, or the host operations a
pseudo-instruction stands for (rules R103 to R105, R109, R110, R114). -/
def Obligations.DecodeInvertsEncode : Prop :=
  (∀ (i : Instr) (w : Opw), encodeOpw i = some w → decodeOpw w = i)
  ∧ (∀ i : Instr, i.wellFormed = true → (encode i).map (decode i.stream) = (expand i).map Except.ok)

/-- Words the spec writes out (table B1 of 95_test_vectors.md) decode to the operations it names. -/
def Obligations.SpecWordsDecode : Prop :=
  decodeOpw 0x100001E83B00#48 = .configure 0 7811 5 .cmp
  ∧ decodeOpw 0x1FFFE0000200#48 = .configure 0xFFFE 0 1 .free
  ∧ decodeOpw 0x200000000001#48 = .registerCallback 1
  ∧ decodeOpw 0x3FFFFFFFFFFF#48 = .disable
  ∧ decodeOpw 0x40000E4E1B02#48 = .waitTicks 2 0 58593 5 .cmp
  ∧ decodeOpw 0x4FFFE0000201#48 = .waitTicks 1 0xFFFE 0 1 .free
  ∧ decodeOpw 0x800000000032#48 = .sendByte 0x32
  ∧ decodeOpw 0x900000000000#48 = .receiveByte
  ∧ decodeOpw 0xA000000000FE#48 = .sendText .pbuf
  ∧ decodeOpw 0xA00000000001#48 = .sendText .xbuf
  ∧ decodeOpw 0xB00000000000#48 = .receiveText
  ∧ decodeOpw 0xF00000000000#48 = .reservedOpF

/-- Each stream's decoder reads its table: `OPSEL` alone selects the operation and only the fields it uses are read (rules R104, R105); a byte in
opcode position is one of the four commands or ignored; a byte in response position is a match exactly when it is 0x31 (rules R109,
R110). -/
def Obligations.DecodersReadTheirTables : Prop :=
  (decodeCmd 0x30 = .cmdSetpw ∧ decodeCmd 0x31 = .cmdVerify ∧ decodeCmd 0x32 = .cmdOpen ∧ decodeCmd 0x33 = .cmdLock
    ∧ (∀ b : Byte, b ≠ 0x30 → b ≠ 0x31 → b ≠ 0x32 → b ≠ 0x33 → decodeCmd b = .cmdIgnored b)
    ∧ decodeRsp 0x31 = .rspMatch ∧ (∀ b : Byte, b ≠ 0x31 → decodeRsp b = .rspNomatch b))
  ∧ ∀ w : Opw,
    (opselOf w = 0x1 → decodeOpw w = .configure (initialOf w) (compareOf w) (pselOf w) (modeOf w))
    ∧ (opselOf w = 0x2 → decodeOpw w = .registerCallback (lowByteOf w))
    ∧ (opselOf w = 0x3 → decodeOpw w = .disable)
    ∧ (opselOf w = 0x4 → decodeOpw w = .waitTicks (lowByteOf w) (initialOf w) (compareOf w) (pselOf w) (modeOf w))
    ∧ (opselOf w = 0x8 → decodeOpw w = .sendByte (lowByteOf w))
    ∧ (opselOf w = 0x9 → decodeOpw w = .receiveByte)
    ∧ (opselOf w = 0xA → decodeOpw w = .sendText (if w.getLsbD 0 then .xbuf else .pbuf))
    ∧ (opselOf w = 0xB → decodeOpw w = .receiveText)
    ∧ (opselOf w = 0x0 → decodeOpw w = .reservedOp0)
    ∧ (opselOf w = 0x5 → decodeOpw w = .reservedOp5)
    ∧ (opselOf w = 0x6 → decodeOpw w = .reservedOp6)
    ∧ (opselOf w = 0x7 → decodeOpw w = .reservedOp7)
    ∧ (opselOf w = 0xC → decodeOpw w = .reservedOpC)
    ∧ (opselOf w = 0xD → decodeOpw w = .reservedOpD)
    ∧ (opselOf w = 0xE → decodeOpw w = .reservedOpE)
    ∧ (opselOf w = 0xF → decodeOpw w = .reservedOpF)

/-- A frame's bytes, whatever follows them on the link, are cut back into that frame: the opcode decides whether a payload follows,
and the payload ends at the first 0x00 (rules R102, R106, R107). -/
def Obligations.FramesCutBackFromTheirBytes : Prop :=
  (∀ (op : Byte) (text rest : List Byte), op = 0x30 ∨ op = 0x31 → text.length ≤ 9 → (∀ b ∈ text, b ≠ 0) →
    cutFrame ((Frame.payload op text).bytes ++ rest) = .ok (.payload op text, rest))
  ∧ (∀ (op : Byte) (rest : List Byte), op ≠ 0x30 → op ≠ 0x31 → cutFrame ((Frame.bare op).bytes ++ rest) = .ok (.bare op, rest))

/-- A serial character: ten line values, start 0, data least significant first, stop 1, and the byte is read back from them. The
start bit and the bit order are general knowledge in the spec itself (rule R101, G1). -/
def Obligations.SerialCharacterCarriesItsByte : Prop :=
  ∀ d : Byte, (charBits d).length = 10 ∧ (charBits d)[0]? = some false ∧ (charBits d)[9]? = some true
    ∧ (∀ k < 8, (charBits d)[k + 1]? = some (d.getLsbD k)) ∧ charByte (charBits d) = some d

/-! ## The Tick Timer's operations (file 40_timer.md) -/

/-- `configure` by a foreground free to issue it: a legal prescaler code arms the counter and changes nothing else, a reserved one
is refused (rule R131). -/
def Obligations.ConfigureArmsTheCounter : Prop :=
  ∀ (s : State) (a b : Count) (ps : Psel) (m : TimerMode), (s.block s.cur).ready = true →
    (1 ≤ ps.toNat → ps.toNat ≤ 5 →
      exec (.configure a b ps m) s = .next (s.setBlock s.cur { s.block s.cur with
        timer := { (s.block s.cur).timer with
          count := a, compare := b, psel := ps, mode := m, pdiv := 0, pending := false, ie := true, run := true } }))
    ∧ (ps = 0 ∨ ps = 6 ∨ ps = 7 → exec (.configure a b ps m) s = .refused .reservedPrescaler)

/-- `register_callback`: the null handle changes nothing, `TICK_INC` is installed, any other handle is refused (rule R132). -/
def Obligations.RegisterCallbackInstallsOnlyTickInc : Prop :=
  ∀ (s : State) (fn : Byte), (s.block s.cur).ready = true →
    (fn = 0x00 → exec (.registerCallback fn) s = .next s)
    ∧ (fn = 0x01 → exec (.registerCallback fn) s = .next (s.setBlock s.cur { s.block s.cur with
        timer := { (s.block s.cur).timer with cb := .tickInc } }))
    ∧ (fn ≠ 0x00 → fn ≠ 0x01 → exec (.registerCallback fn) s = .refused .badHandler)

/-- `disable` stops the counter, masks its interrupt and discards a pending firing; nothing else changes (rule R133). -/
def Obligations.DisableStopsAndMasks : Prop :=
  ∀ s : State, (s.block s.cur).ready = true →
    exec .disable s = .next (s.setBlock s.cur { s.block s.cur with
      timer := { (s.block s.cur).timer with run := false, ie := false, pending := false } })

/-- The begin step of `wait_ticks` (rule R134): stale ticks and a reserved prescaler code are refused; `n` = 0 completes at once with
the timer disabled; any other `n` arms the counter and the foreground waits. -/
def Obligations.WaitTicksBegins : Prop :=
  ∀ (s : State) (n : Tick) (a b : Count) (ps : Psel) (m : TimerMode), (s.block s.cur).ready = true →
    ((s.timer s.cur).ticks ≠ 0 → exec (.waitTicks n a b ps m) s = .refused .staleTicks)
    ∧ ((s.timer s.cur).ticks = 0 → ps = 0 ∨ ps = 6 ∨ ps = 7 → exec (.waitTicks n a b ps m) s = .refused .reservedPrescaler)
    ∧ ((s.timer s.cur).ticks = 0 → 1 ≤ ps.toNat → ps.toNat ≤ 5 → n = 0 →
      exec (.waitTicks n a b ps m) s = .next (s.setBlock s.cur { s.block s.cur with
        timer := { (s.block s.cur).timer with
          count := a, compare := b, psel := ps, mode := m, pdiv := 0, pending := false, ie := false, run := false, ticks := 0 } }))
    ∧ ((s.timer s.cur).ticks = 0 → 1 ≤ ps.toNat → ps.toNat ≤ 5 → n ≠ 0 →
      exec (.waitTicks n a b ps m) s = .next (s.setBlock s.cur { s.block s.cur with
        timer := { (s.block s.cur).timer with
          count := a, compare := b, psel := ps, mode := m, pdiv := 0, pending := false, ie := true, run := true
          wtarget := n, waiting := true }
        act := .inWait }))

/-- The model's return from a completed wait: the foreground's next transition ends the operation and changes nothing else. That the
return is a transition of its own is the model's (entry 3), deduced from rules R192, R266 and R267. -/
def Obligations.CompletedWaitReturnsToTheForeground : Prop :=
  ∀ (s : State) (n : Tick) (a b : Count) (ps : Psel) (m : TimerMode),
    (s.timer s.cur).waiting = false → (s.block s.cur).act = .inWait →
    exec (.waitTicks n a b ps m) s = .next (s.setBlock s.cur { s.block s.cur with act := .idle })

/-- While `WAITING` = 1 a unit's foreground is blocked (rules R31, R130, R170, R190, R220): its turn, whether on the port or in its shell, changes
nothing but the agenda and whose turn it was; and exec of an operation it could issue, of a command on the control unit, of a response on
the HMI unit, answers the same state, whatever the operands. That exec of an operation that is not enabled answers the same state, before
any refusal of its operands, is the model's choice (log entry 18). -/
def Obligations.NoOperationWhileWaiting : Prop :=
  (∀ (s : State) (r : Role) (rest : List Event), s.agenda = .fg r :: rest → (s.timer r).waiting = true → step s = .next (s.turn r rest))
  ∧ (∀ (s : State) (i : Instr), isIssued i = true → (s.timer s.cur).waiting = true → exec i s = .next s)
  ∧ (∀ (s : State) (i : Instr), i.stream = .cmd → s.ctrl.timer.waiting = true → exec i s = .next s)
  ∧ (∀ (s : State) (i : Instr), i.stream = .rsp → s.hmi.timer.waiting = true → exec i s = .next s)

/-- The delays begin (rules R114, R138 to R140): `delay_1s` and `delay_15s` as the `wait_ticks` of their profiles, one tick of 7812 count events and
two of 58594; `delay_60s` and `delay_3s` with four `delay_15s` and three `delay_1s` words on the port, the first of them begun. How an
expansion reaches the port is the model's (entry 12). -/
def Obligations.DelaysBeginTheirProfiles : Prop :=
  ∀ s : State, (s.block s.cur).ready = true → (s.timer s.cur).ticks = 0 →
    exec .delay1s s = .next (s.setBlock s.cur { s.block s.cur with
      timer := (s.block s.cur).timer.delaying 1 7811, act := .inWait })
    ∧ exec .delay15s s = .next (s.setBlock s.cur { s.block s.cur with
      timer := (s.block s.cur).timer.delaying 2 58593, act := .inWait })
    ∧ exec .delay60s s = .next (s.setBlock s.cur { s.block s.cur with
      timer := (s.block s.cur).timer.delaying 2 58593, act := .inWait, opDone := false
      port := [0x40000E4E1B02#48, 0x40000E4E1B02#48, 0x40000E4E1B02#48, 0x40000E4E1B02#48] ++ (s.block s.cur).port })
    ∧ exec .delay3s s = .next (s.setBlock s.cur { s.block s.cur with
      timer := (s.block s.cur).timer.delaying 1 7811, act := .inWait, opDone := false
      port := [0x400001E83B01#48, 0x400001E83B01#48, 0x400001E83B01#48] ++ (s.block s.cur).port })

/-- `delay_60s` and `delay_3s`, issued by firmware on an empty port with `TICK_INC` registered, followed to their four or three complete waits
(rule R140: eight and three firings handled). Under every schedule that neither resets the unit nor presents it another word, each wait
takes its two or one handler steps, and when the port is empty again exactly eight or three have been taken, the timer is disabled and
`TICKS` is 0. And the delay does end: with each firing handled at once, after 58594 × 1024 or 7812 × 1024 clock events a firing. The
words on the port and the foreground's return from each wait as a turn of its own are the model's (entries 3 and 12). -/
def Obligations.LongDelaysTakeTheirCompleteWaits : Prop :=
  ∀ row ∈ [(Instr.delay60s, 4, 2, (58593 : Count)), (.delay3s, 3, 1, 7811)], ∀ s u : State,
    (s.block s.cur).ready = true → (s.block s.cur).fore = .firmware → (s.block s.cur).port = [] →
    (s.timer s.cur).ticks = 0 → (s.timer s.cur).cb = .tickInc → exec row.1 s = .next u →
    (∀ (sched : List Event) (t : State), (∀ f, Event.reset s.cur f ∉ sched) → (∀ w, Event.present s.cur w ∉ sched) →
      Host.Core.run Sys2Proof.core sched.length { u with agenda := sched } = .next t →
      let k := handlerSteps s.cur sched.length { u with agenda := sched }
      let left := (t.block s.cur).port.length
      left ≤ row.2.1 ∧ row.2.2.1 * (row.2.1 - left) ≤ k ∧ k ≤ row.2.2.1 * (row.2.1 - left + 1) ∧ k ≤ row.2.2.1 * row.2.1
      ∧ (left = 0 → k = row.2.2.1 * row.2.1 ∧ (t.block s.cur).act = .idle ∧ (t.timer s.cur).ticks = 0
        ∧ (t.timer s.cur).waiting = false ∧ (t.timer s.cur).run = false ∧ (t.timer s.cur).ie = false
        ∧ (t.timer s.cur).pending = false))
    ∧ (let sched := (List.replicate row.2.1 (waitTurns s.cur row.2.2.1 row.2.2.2)).flatten
      ∃ t : State, Host.Core.run Sys2Proof.core sched.length { u with agenda := sched } = .next t
        ∧ (t.block s.cur).port = [] ∧ (t.block s.cur).opDone = true ∧ (t.timer s.cur).count = 0)

/-- A word with a reserved `OPSEL` has no meaning: each of the eight is refused in every state (rules R111 b, R262). -/
def Obligations.ReservedOperationsAreRefused : Prop :=
  ∀ s : State,
    exec .reservedOp0 s = .refused .reservedOp ∧ exec .reservedOp5 s = .refused .reservedOp
    ∧ exec .reservedOp6 s = .refused .reservedOp ∧ exec .reservedOp7 s = .refused .reservedOp
    ∧ exec .reservedOpC s = .refused .reservedOp ∧ exec .reservedOpD s = .refused .reservedOp
    ∧ exec .reservedOpE s = .refused .reservedOp ∧ exec .reservedOpF s = .refused .reservedOp

/-! ## The counter (rules R135 to R137) -/

/-- A turn of `CLK`: nothing with `RUN` = 0, the divider counts up to `P(PSEL)` − 1, and then clears as the count event happens in
the same transition; no other state changes (rule R135). -/
def Obligations.ClockTurnDrivesTheDivider : Prop :=
  ∀ (s : State) (r : Role) (rest : List Event), s.agenda = .clk r :: rest →
    let u := { s with agenda := rest }
    let t := s.timer r
    (t.run = false → step s = .next u)
    ∧ (∀ p, t.run = true → divisor t.psel = some p → t.pdiv.toNat + 1 ≠ p →
      step s = .next (u.setBlock r { s.block r with timer := { t with pdiv := t.pdiv + 1 } }))
    ∧ (∀ p, t.run = true → divisor t.psel = some p → t.pdiv.toNat + 1 = p →
      step s = .next (u.setBlock r { s.block r with timer := { t with pdiv := 0 }.countEvent }))

/-- The count event in the two modes (rule R136). -/
def Obligations.CountEventFiresByMode : Prop :=
  ∀ t : Timer,
    (t.mode = .cmp → t.count = t.compare → t.countEvent = { t with count := 0, pending := true })
    ∧ (t.mode = .cmp → t.count ≠ t.compare → t.countEvent = { t with count := t.count + 1 })
    ∧ (t.mode = .free → t.count = 65535 → t.countEvent = { t with count := 0, pending := true })
    ∧ (t.mode = .free → t.count ≠ 65535 → t.countEvent = { t with count := t.count + 1 })

/-- How many count events lead to the next firing, from any count: in mode `CMP` ((`COMPARE` − `COUNT`) mod 65536) + 1, in mode `FREE`
65536 − `COUNT`. No firing comes before, that event fires, and `COUNT` is 0 after it, so that the later periods are `COMPARE` + 1 and
65536 (rule R137). -/
def Obligations.FiringPeriodsOfTheModes : Prop :=
  ∀ t : Timer, t.pending = false →
    let n := match t.mode with
      | .cmp => (t.compare - t.count).toNat + 1
      | .free => 65536 - t.count.toNat
    (∀ k < n, (countEvents k t).pending = false)
    ∧ countEvents n t = { t with count := 0, pending := true }

/-- From a cleared divider, the first `P(PSEL)` − 1 clock events only count in `PDIV`, and the `P(PSEL)`-th is the count event (rule
R135). -/
def Obligations.PrescalerDividesTheClock : Prop :=
  ∀ (t : Timer) (p : Nat), t.run = true → divisor t.psel = some p → t.pdiv = 0 →
    (∀ k < p, clockEvents k t = { t with pdiv := BitVec.ofNat 10 k })
    ∧ clockEvents p t = t.countEvent

/-! ## The timer interrupt (file 60_exceptions.md) -/

/-- A turn of `IRQ`: not enabled unless `IF` = 1 and `IE` = 1; a firing with no callback is dropped; with `TICK_INC` the ticks rise by 1
modulo 256, and the increment that reaches the target of a wait completes it in the same transition; nothing is saved and nothing
else changes (rules R266, R267). -/
def Obligations.HandlerTurnIncrementsAndCompletes : Prop :=
  ∀ (s : State) (r : Role) (rest : List Event), s.agenda = .irq r :: rest →
    let u := { s with agenda := rest }
    let t := s.timer r
    (t.pending = false ∨ t.ie = false → step s = .next u)
    ∧ (t.pending = true → t.ie = true → t.cb = .none →
      step s = .next (u.setBlock r { s.block r with timer := { t with pending := false } }))
    ∧ (t.pending = true → t.ie = true → t.cb = .tickInc → ¬(t.waiting = true ∧ t.ticks + 1 = t.wtarget) →
      step s = .next (u.setBlock r { s.block r with timer := { t with pending := false, ticks := t.ticks + 1 } }))
    ∧ (t.pending = true → t.ie = true → t.cb = .tickInc → t.waiting = true → t.ticks + 1 = t.wtarget →
      step s = .next (u.setBlock r { s.block r with
        timer := { t with ticks := 0, run := false, ie := false, pending := false, waiting := false } }))

/-- A begun wait for `n` ticks, with `TICK_INC` registered, under any turns of the clock and of the handler: until it has completed it
has taken fewer than `n` handler steps and `TICKS` is their number; it completes with exactly `n`, and then `TICKS` is 0, the timer
is disabled and no further handler step is taken (rule R134 b). -/
def Obligations.WaitTakesExactlyItsHandlerSteps : Prop :=
  ∀ (t : Timer) (turns : List TimerTurn), t.Inv → t.waiting = true → t.ticks = 0 → t.cb = .tickInc →
    let t' := (timerRun turns t).1
    let k := (timerRun turns t).2
    (t'.waiting = true ∧ k < t.wtarget.toNat ∧ t'.ticks.toNat = k)
    ∨ (t'.waiting = false ∧ k = t.wtarget.toNat ∧ t'.ticks = 0 ∧ t'.run = false ∧ t'.ie = false ∧ t'.pending = false)

/-- A wait with no callback never completes: whatever else happens, short of that unit's reset, the unit stays waiting and no tick is
counted (rule R134 c, U1). -/
def Obligations.WaitWithoutCallbackNeverEnds : Prop :=
  ∀ (r : Role) (k : Nat) (s t : State), (s.timer r).waiting = true → (s.timer r).cb = .none → k ≤ s.agenda.length →
    (∀ f, Event.reset r f ∉ s.agenda) → Host.Core.run Sys2Proof.core k s = .next t →
    (t.timer r).waiting = true ∧ (t.timer r).cb = .none ∧ (t.timer r).ticks = (s.timer r).ticks

/-- While a unit waits, its timer changes only by its own clock, its own handler and its own reset (rules R31, R203, R266). -/
def Obligations.WaitingTimerChangesOnlyByItsOwnTurns : Prop :=
  ∀ (s t : State) (r : Role) (e : Event) (rest : List Event), s.agenda = e :: rest → (s.timer r).waiting = true →
    step s = .next t →
    t.timer r =
      match e with
      | .clk q => if q = r then (s.timer r).clockEvent else s.timer r
      | .irq q => if q = r then (s.timer r).takeInterrupt else s.timer r
      | .reset q _ => if q = r then Timer.reset else s.timer r
      | .fg _ | .key _ | .present _ _ => s.timer r

/-- `TICKS` is written by the handler step alone: no other turn but the unit's reset changes it (rules R30, R58, R272). -/
def Obligations.OnlyTheHandlerChangesTicks : Prop :=
  ∀ (s t : State) (r : Role) (e : Event) (rest : List Event), s.agenda = e :: rest → step s = .next t →
    e ≠ .irq r → (∀ f, e ≠ .reset r f) → (t.timer r).ticks = (s.timer r).ticks

/-! ## The Command Framer (file 41_channel.md) -/

/-- `send_byte` appends the byte to the peer's queue and changes nothing else (rule R171). -/
def Obligations.SendByteJoinsThePeersQueue : Prop :=
  ∀ (s : State) (b : Byte), (s.block s.cur).ready = true →
    exec (.sendByte b) s = .next (s.setBlock s.cur.peer { s.block s.cur.peer with rxq := (s.block s.cur.peer).rxq ++ [b] })

/-- `receive_byte`: the oldest byte leaves the queue for `RES`; on an empty queue it blocks, with nothing changed but that it is the
operation in progress (rule R172; the marker of the operation in progress is the model's, entry 3). -/
def Obligations.ReceiveByteTakesTheOldest : Prop :=
  ∀ s : State, (s.timer s.cur).waiting = false → (s.block s.cur).act = .idle ∨ (s.block s.cur).act = .inReceiveByte →
    (∀ b rest, (s.block s.cur).rxq = b :: rest →
      exec .receiveByte s = .next (s.setBlock s.cur { s.block s.cur with rxq := rest, res := b, act := .idle }))
    ∧ ((s.block s.cur).rxq = [] →
      exec .receiveByte s = .next (s.setBlock s.cur { s.block s.cur with act := .inReceiveByte }))

/-- `send_text`, run to its end with no other agent between its byte steps: the text and then the terminator join the peer's queue, and
nothing else changes (rule R173). -/
def Obligations.SendTextSendsTextAndTerminator : Prop :=
  ∀ (s : State) (buf : BufSel), (s.block s.cur).ready = true →
    let t := (s.block s.cur).text buf
    execTimes (t.len.toNat + 1) (.sendText buf) s =
      .next (s.setBlock s.cur.peer { s.block s.cur.peer with rxq := (s.block s.cur.peer).rxq ++ (t.content ++ [0x00]) })

/-- One byte step of `send_text`: the byte at the position reached, or after the last the terminator (rules R76, R173). -/
def Obligations.SendTextByteSteps : Prop :=
  ∀ (s : State) (buf : BufSel) (i : BitVec 4), (s.timer s.cur).waiting = false →
    (s.block s.cur).act = .inSendText buf i ∨ ((s.block s.cur).act = .idle ∧ i = 0) →
    let u := s.block s.cur
    let p := s.block s.cur.peer
    (i.toNat < (u.text buf).len.toNat → exec (.sendText buf) s =
      .next ((s.setBlock s.cur { u with act := .inSendText buf (i + 1) }).setBlock s.cur.peer
        { p with rxq := p.rxq ++ [(u.text buf).byte i.toNat] }))
    ∧ ((u.text buf).len.toNat ≤ i.toNat → exec (.sendText buf) s =
      .next ((s.setBlock s.cur { u with act := .idle }).setBlock s.cur.peer { p with rxq := p.rxq ++ [0x00] }))

/-- Each byte step of `receive_text` (rules R78, R174). As it begins the length is cleared; in progress it stands at the length so far. In both,
the terminator ends it, another byte joins the text and it goes on, the tenth is the fault `BufferOverflow`, and on an empty queue it
blocks. That the length is cleared as the operation begins even where the queue is empty is the model's reading (entry 19), and so is
the marker of the operation in progress (entry 3). -/
def Obligations.ReceiveTextByteSteps : Prop :=
  (∀ s : State, (s.block s.cur).ready = true →
    let u := s.block s.cur
    (u.rxq = [] → exec .receiveText s = .next (s.setBlock s.cur { u with
        pbuf := { u.pbuf with len := 0 }, act := .inReceiveText }))
    ∧ (∀ rest, u.rxq = 0x00 :: rest → exec .receiveText s = .next (s.setBlock s.cur { u with
        rxq := rest, pbuf := { bytes := u.pbuf.bytes.setIfInBounds 0 0x00, len := 0 } }))
    ∧ (∀ b rest, u.rxq = b :: rest → b ≠ 0x00 → exec .receiveText s = .next (s.setBlock s.cur { u with
        rxq := rest, pbuf := { bytes := u.pbuf.bytes.setIfInBounds 0 b, len := 1 }, act := .inReceiveText })))
  ∧ (∀ s : State, (s.timer s.cur).waiting = false → (s.block s.cur).act = .inReceiveText →
    let u := s.block s.cur
    let n := u.pbuf.len
    (u.rxq = [] → exec .receiveText s = .next s)
    ∧ (∀ rest, u.rxq = 0x00 :: rest → exec .receiveText s = .next (s.setBlock s.cur { u with
        rxq := rest, pbuf := { bytes := u.pbuf.bytes.setIfInBounds n.toNat 0x00, len := n }, act := .idle }))
    ∧ (∀ b rest, u.rxq = b :: rest → b ≠ 0x00 → n.toNat < 9 → exec .receiveText s = .next (s.setBlock s.cur { u with
        rxq := rest, pbuf := { bytes := u.pbuf.bytes.setIfInBounds n.toNat b, len := n + 1 } }))
    ∧ (∀ b rest, u.rxq = b :: rest → b ≠ 0x00 → n = 9 → exec .receiveText s = .fault (.bufferOverflow b)))

/-- `receive_text`, run to its end with no other agent between its byte steps, on a queue that holds a text of at most nine bytes: the
text is in `PBUF` and its length in `PLEN`, the terminator behind it, later bytes of `PBUF` as they were, the terminator consumed, and
nothing else changes (rule R174). -/
def Obligations.ReceiveTextFillsTheBuffer : Prop :=
  ∀ (s : State) (text rest : List Byte), (s.block s.cur).ready = true → text.length ≤ 9 → (∀ b ∈ text, b ≠ 0x00) →
    (s.block s.cur).rxq = text ++ 0x00 :: rest →
    ∃ p : Text, execTimes (text.length + 1) .receiveText s = .next (s.setBlock s.cur { s.block s.cur with rxq := rest, pbuf := p })
      ∧ p.content = text ∧ p.len.toNat = text.length ∧ p.byte text.length = 0x00
      ∧ ∀ i, text.length < i → p.byte i = (s.block s.cur).pbuf.byte i

/-- `send_frame`: the opcode byte joins the peer's queue; with a buffer the `send_text` word is next on the port, without one the port is
as before (rules R112, R114; entry 12). -/
def Obligations.SendFrameSendsTheOpcodeFirst : Prop :=
  ∀ (s : State) (op : Byte), (s.block s.cur).ready = true →
    let u := s.block s.cur
    let p := s.block s.cur.peer
    exec (.sendFrame op none) s =
      .next ((s.setBlock s.cur { u with opDone := true }).setBlock s.cur.peer { p with rxq := p.rxq ++ [op] })
    ∧ exec (.sendFrame op (some .pbuf)) s =
      .next ((s.setBlock s.cur { u with opDone := true, port := 0xA00000000000#48 :: u.port }).setBlock s.cur.peer
        { p with rxq := p.rxq ++ [op] })
    ∧ exec (.sendFrame op (some .xbuf)) s =
      .next ((s.setBlock s.cur { u with opDone := true, port := 0xA00000000001#48 :: u.port }).setBlock s.cur.peer
        { p with rxq := p.rxq ++ [op] })

/-- `send_text` of either buffer on one unit and then `receive_text` on the other, both from the operation port, carry the text across:
the receiver's `PBUF` holds the sender's text and `PLEN` its length, the queue is empty again, the sender's buffers and both timers are
as they were (rule R175; the words on the ports, and that they leave them when done, are the model's, entry 5). -/
def Obligations.TextCrossesTheLink : Prop :=
  ∀ (s : State) (r : Role) (buf : BufSel), (s.block r).ready = true → (s.block r.peer).ready = true →
    let text := (s.block r).text buf
    (s.block r).port = [if buf = .pbuf then 0xA00000000000#48 else 0xA00000000001#48] →
    (s.block r.peer).port = [0xB00000000000#48] → (s.block r.peer).rxq = [] →
    text.len.toNat ≤ 9 → (∀ b ∈ text.content, b ≠ 0x00) →
    s.agenda = List.replicate (text.len.toNat + 1) (.fg r) ++ List.replicate (text.len.toNat + 1) (.fg r.peer) →
    ∃ t : State, Host.Core.run Sys2Proof.core (2 * (text.len.toNat + 1)) s = .next t
      ∧ (t.block r.peer).pbuf.content = text.content ∧ (t.block r.peer).pbuf.len = text.len
      ∧ (t.block r.peer).rxq = [] ∧ (t.block r).pbuf = (s.block r).pbuf ∧ (t.block r).xbuf = (s.block r).xbuf
      ∧ (t.block r).port = [] ∧ (t.block r.peer).port = []
      ∧ t.timer r = s.timer r ∧ t.timer r.peer = s.timer r.peer

/-- The link in one step of the machine: a unit's queue loses its oldest byte only in its own foreground's turn, gains one byte at its end
only in the other's, is emptied by its own reset, and in every other turn is as it was (rules R34, R82). Which byte is appended is for the
sending operations' statements to say. -/
def Obligations.LinkPopsItsOldestAndAppendsAtItsEnd : Prop :=
  ∀ (s t : State) (r : Role) (e : Event) (rest : List Event), s.agenda = e :: rest → step s = .next t →
    let q := (s.block r).rxq
    let q' := (t.block r).rxq
    (e = .fg r → q' = q ∨ ∃ b, q = b :: q')
    ∧ (e = .fg r.peer → q' = q ∨ ∃ b, q' = q ++ [b])
    ∧ (∀ f, e = .reset r f → q' = [])
    ∧ (e ≠ .fg r → e ≠ .fg r.peer → (∀ f, e ≠ .reset r f) → q' = q)

/-! ## Commands and the control-unit shell (file 42_dispatcher.md) -/

/-- The dispatch step in `(C_WAIT, 0)`: the opcode byte at the head is consumed, 0x30 to 0x33 enter the four handlers' states at step 0, any
other byte leaves the shell waiting, and nothing else changes; on an empty queue the step blocks. Said of each command with its own byte
at the head, and of the shell's turn with any byte there (rules R191, R202). -/
def Obligations.DispatchEntersTheHandler : Prop :=
  (∀ s : State, s.ctrlShell.booted = true → s.ctrl.timer.waiting = false → s.ctrlShell.st = .wait → s.ctrlShell.step = 0 →
    (∀ rest : List Byte,
      let entered (st : CtrlState) : State :=
        { s with ctrl := { s.ctrl with rxq := rest }, ctrlShell := { s.ctrlShell with st := st, step := 0 } }
      (s.ctrl.rxq = 0x30 :: rest → exec .cmdSetpw s = .next (entered .setpw))
      ∧ (s.ctrl.rxq = 0x31 :: rest → exec .cmdVerify s = .next (entered .verify))
      ∧ (s.ctrl.rxq = 0x32 :: rest → exec .cmdOpen s = .next (entered .open))
      ∧ (s.ctrl.rxq = 0x33 :: rest → exec .cmdLock s = .next (entered .lock))
      ∧ (∀ b : Byte, (Instr.cmdIgnored b).wellFormed = true → s.ctrl.rxq = b :: rest →
        exec (.cmdIgnored b) s = .next (entered .wait)))
    ∧ (s.ctrl.rxq = [] → ∀ i : Instr, i.stream = .cmd → exec i s = .next s))
  ∧ (∀ (s : State) (evs : List Event), ShellTurn s .ctrl evs → s.ctrlShell.st = .wait → s.ctrlShell.step = 0 →
    (∀ (b : Byte) (rest : List Byte), s.ctrl.rxq = b :: rest →
      step s = .next { s.turn .ctrl evs with
        ctrl := { s.ctrl with rxq := rest }
        ctrlShell := { s.ctrlShell with
          st := if b = 0x30 then .setpw else if b = 0x31 then .verify else if b = 0x32 then .open else if b = 0x33 then .lock else .wait
          step := 0 } })
    ∧ (s.ctrl.rxq = [] → step s = .next (s.turn .ctrl evs)))

/-- The table of `C_SETPW` after the payload has arrived (rule R194, steps 1 to 3): the index is cleared, the text is copied byte by byte to
`PW_BASE` + `IDX`, the length is kept, and the shell waits for the next opcode. -/
def Obligations.SetpwCopiesTheText : Prop :=
  ∀ s : State, s.ctrlShell.booted = true → s.ctrl.timer.waiting = false → s.ctrlShell.st = .setpw →
    let c := s.ctrlShell
    (c.step = 1 → exec .cmdSetpw s = .next { s with ctrlShell := { c with idx := 0, step := 2 } })
    ∧ (c.step = 2 → c.idx = s.ctrl.pbuf.len → exec .cmdSetpw s = .next { s with ctrlShell := { c with step := 3 } })
    ∧ (c.step = 2 → c.idx ≠ s.ctrl.pbuf.len → exec .cmdSetpw s = .next { s with
        store := s.store.write (storeAddr s.params c.idx.toNat) (s.ctrl.pbuf.byte c.idx.toNat)
        ctrlShell := { c with idx := c.idx + 1 } })
    ∧ (c.step = 3 → exec .cmdSetpw s = .next { s with ctrlShell := { c with pwlen := s.ctrl.pbuf.len, st := .wait, step := 0 } })

/-- The table of `C_VERIFY` after the payload has arrived (rule R196, steps 1 to 4): the stored bytes are read back to `XBUF`, terminated, and
the verdict is 0x31 exactly when the lengths and every position agree, else 0x30. -/
def Obligations.VerifyReadsBackAndReplies : Prop :=
  ∀ s : State, s.ctrlShell.booted = true → s.ctrl.ready = true → s.ctrlShell.st = .verify →
    let c := s.ctrlShell
    (c.step = 1 → exec .cmdVerify s = .next { s with ctrlShell := { c with idx := 0, step := 2 } })
    ∧ (c.step = 2 → c.idx = c.pwlen → exec .cmdVerify s = .next { s with ctrlShell := { c with step := 3 } })
    ∧ (c.step = 2 → c.idx ≠ c.pwlen → exec .cmdVerify s = .next { s with
        ctrl := { s.ctrl with xbuf := { s.ctrl.xbuf with
          bytes := s.ctrl.xbuf.bytes.setIfInBounds c.idx.toNat (memRead s.store (storeAddr s.params c.idx.toNat)) } }
        ctrlShell := { c with idx := c.idx + 1 } })
    ∧ (c.step = 3 → exec .cmdVerify s = .next { s with
        ctrl := { s.ctrl with xbuf := { bytes := s.ctrl.xbuf.bytes.setIfInBounds c.pwlen.toNat 0x00, len := c.pwlen } }
        ctrlShell := { c with step := 4 } })
    ∧ (c.step = 4 → ∃ v : Byte, exec .cmdVerify s = .next { s with
          hmi := { s.hmi with rxq := s.hmi.rxq ++ [v] }, ctrlShell := { c with st := .wait, step := 0 } }
        ∧ (v = 0x31 ∨ v = 0x30)
        ∧ (v = 0x31 ↔ s.ctrl.pbuf.len = s.ctrl.xbuf.len
          ∧ ∀ i < s.ctrl.xbuf.len.toNat, s.ctrl.pbuf.byte i = s.ctrl.xbuf.byte i))

/-- Step 0 of `C_SETPW` and `C_VERIFY` is `receive_text`: each of its transitions is one of the command's, its fault is the command's, and
the step ends when it does (rules R192, R194, R196). -/
def Obligations.PayloadStepIsReceiveText : Prop :=
  ∀ s : State, s.cur = .ctrl → s.ctrlShell.booted = true → s.ctrl.timer.waiting = false → s.ctrlShell.step = 0 →
    (∀ t, exec .receiveText s = .next t →
      let k : BitVec 5 := if t.ctrl.act = .idle then 1 else 0
      (s.ctrlShell.st = .setpw → exec .cmdSetpw s = .next { t with ctrlShell := { s.ctrlShell with step := k } })
      ∧ (s.ctrlShell.st = .verify → exec .cmdVerify s = .next { t with ctrlShell := { s.ctrlShell with step := k } }))
    ∧ (∀ e, exec .receiveText s = .fault e →
      (s.ctrlShell.st = .setpw → exec .cmdSetpw s = .fault e) ∧ (s.ctrlShell.st = .verify → exec .cmdVerify s = .fault e))

/-- The table of `C_OPEN` (rules R45, R198): the rows that write `MOTOR`, the delay rows 1, 3, 4, 5 and 7, which begin their wait and, once it has
completed, move on, and the door state at each step. That the return from a completed wait is a transition of its own is the model's
(entry 3). -/
def Obligations.OpenRunsTheActuationSequence : Prop :=
  (∀ (st : CtrlState) (k : BitVec 5),
    (doorOf st k = .opening ↔ st = .open ∧ (k = 1 ∨ k = 2))
    ∧ (doorOf st k = .open ↔ st = .open ∧ (k = 3 ∨ k = 4 ∨ k = 5 ∨ k = 6))
    ∧ (doorOf st k = .closing ↔ st = .open ∧ (k = 7 ∨ k = 8)))
  ∧ ∀ s : State, s.ctrlShell.booted = true → s.ctrl.timer.waiting = false → s.ctrlShell.st = .open →
    let c := s.ctrlShell
    (c.step = 0 → exec .cmdOpen s = .next { s with ctrlShell := { c with motor := .forward, step := 1 } })
    ∧ (c.step = 2 → exec .cmdOpen s = .next { s with ctrlShell := { c with motor := .stopped, step := 3 } })
    ∧ (c.step = 6 → exec .cmdOpen s = .next { s with ctrlShell := { c with motor := .reverse, step := 7 } })
    ∧ (c.step = 8 → exec .cmdOpen s = .next { s with ctrlShell := { c with motor := .stopped, st := .wait, step := 0 } })
    ∧ (c.step = 1 ∨ c.step = 7 → s.ctrl.act = .idle → s.ctrl.timer.ticks = 0 →
      exec .cmdOpen s = .next { s with ctrl := { s.ctrl with timer := s.ctrl.timer.delaying 2 58593, act := .inWait } })
    ∧ (c.step = 3 ∨ c.step = 4 ∨ c.step = 5 → s.ctrl.act = .idle → s.ctrl.timer.ticks = 0 →
      exec .cmdOpen s = .next { s with ctrl := { s.ctrl with timer := s.ctrl.timer.delaying 1 7811, act := .inWait } })
    ∧ (c.step = 1 ∨ c.step = 3 ∨ c.step = 4 ∨ c.step = 5 ∨ c.step = 7 → s.ctrl.act = .inWait →
      exec .cmdOpen s = .next { s with ctrl := { s.ctrl with act := .idle }, ctrlShell := { c with step := c.step + 1 } })

/-- The table of `C_LOCK` (rule R200): the alarm goes on, four `delay_15s` rows begin their wait and, once it has completed, move on, and the alarm
goes off. That the return from a completed wait is a transition of its own is the model's (entry 3). -/
def Obligations.LockHoldsTheAlarm : Prop :=
  ∀ s : State, s.ctrlShell.booted = true → s.ctrl.timer.waiting = false → s.ctrlShell.st = .lock →
    let c := s.ctrlShell
    (c.step = 0 → exec .cmdLock s = .next { s with ctrlShell := { c with alarm := .on, step := 1 } })
    ∧ (c.step = 5 → exec .cmdLock s = .next { s with ctrlShell := { c with alarm := .off, st := .wait, step := 0 } })
    ∧ (c.step = 1 ∨ c.step = 2 ∨ c.step = 3 ∨ c.step = 4 → s.ctrl.act = .idle → s.ctrl.timer.ticks = 0 →
      exec .cmdLock s = .next { s with ctrl := { s.ctrl with timer := s.ctrl.timer.delaying 2 58593, act := .inWait } })
    ∧ (c.step = 1 ∨ c.step = 2 ∨ c.step = 3 ∨ c.step = 4 → s.ctrl.act = .inWait →
      exec .cmdLock s = .next { s with ctrl := { s.ctrl with act := .idle }, ctrlShell := { c with step := c.step + 1 } })

/-- A whole `cmd_setpw` frame, the control unit's foreground alone moving: after 2L + 5 transitions the text stands in the password region, every
other address of `STORE` reads as before, `PWLEN` is the length, nothing was sent, the timer is untouched and the shell waits for the
next opcode with the frame consumed (rule R194). -/
def Obligations.SetpwFrameStoresThePassword : Prop :=
  ∀ (s : State) (text rest : List Byte), s.params.wf = true → s.ctrl.fore = .shell → s.ctrl.port = [] →
    s.ctrlShell.booted = true → s.ctrl.ready = true → s.ctrlShell.st = .wait → s.ctrlShell.step = 0 →
    text.length ≤ 9 → (∀ b ∈ text, b ≠ 0x00) → s.ctrl.rxq = 0x30 :: (text ++ 0x00 :: rest) →
    s.agenda = List.replicate (2 * text.length + 5) (.fg .ctrl) →
    ∃ t : State, Host.Core.run Sys2Proof.core (2 * text.length + 5) s = .next t
      ∧ (∀ i (h : i < text.length), t.store.read (s.params.pwBase + i) = some text[i])
      ∧ (∀ a, (∀ i < text.length, a ≠ s.params.pwBase + i) → t.store.read a = s.store.read a)
      ∧ t.ctrlShell.pwlen.toNat = text.length ∧ t.ctrlShell.st = .wait ∧ t.ctrlShell.step = 0
      ∧ t.ctrl.rxq = rest ∧ t.ctrl.timer = s.ctrl.timer ∧ t.hmi = s.hmi ∧ t.hmiShell = s.hmiShell
      ∧ t.ctrlShell.motor = s.ctrlShell.motor ∧ t.ctrlShell.alarm = s.ctrlShell.alarm

/-- A whole `cmd_verify` frame, the control unit's foreground alone moving: after L + `PWLEN` + 6 transitions one byte has been sent, 0x31 exactly
when the candidate is the stored password in length and in every position, else 0x30; `STORE` and `PWLEN` are unchanged, the timer is
untouched and the shell waits for the next opcode with the frame consumed (rule R196). -/
def Obligations.VerifyFrameIsAnsweredByTheVerdict : Prop :=
  ∀ (s : State) (text rest : List Byte), s.ctrl.fore = .shell → s.ctrl.port = [] →
    s.ctrlShell.booted = true → s.ctrl.ready = true → s.ctrlShell.st = .wait → s.ctrlShell.step = 0 →
    s.ctrlShell.pwlen.toNat ≤ 9 → text.length ≤ 9 → (∀ b ∈ text, b ≠ 0x00) → s.ctrl.rxq = 0x31 :: (text ++ 0x00 :: rest) →
    s.agenda = List.replicate (text.length + s.ctrlShell.pwlen.toNat + 6) (.fg .ctrl) →
    ∃ t : State, Host.Core.run Sys2Proof.core (text.length + s.ctrlShell.pwlen.toNat + 6) s = .next t
      ∧ t.hmi.rxq = s.hmi.rxq ++ [if text = (List.range s.ctrlShell.pwlen.toNat).map s.storedByte then 0x31 else 0x30]
      ∧ t.store = s.store ∧ t.ctrlShell.pwlen = s.ctrlShell.pwlen ∧ t.ctrlShell.st = .wait ∧ t.ctrlShell.step = 0
      ∧ t.ctrl.rxq = rest ∧ t.ctrl.timer = s.ctrl.timer ∧ t.hmiShell = s.hmiShell

/-- The round trip: a password set by one frame and verified by the next is answered 0x31 when the two texts are the same, 0x30 when they
differ in any way (rule R203). -/
def Obligations.SetThenVerifyAnswersEquality : Prop :=
  ∀ (s : State) (pw cand rest : List Byte), s.params.wf = true → s.ctrl.fore = .shell → s.ctrl.port = [] →
    s.ctrlShell.booted = true → s.ctrl.ready = true → s.ctrlShell.st = .wait → s.ctrlShell.step = 0 →
    pw.length ≤ 9 → (∀ b ∈ pw, b ≠ 0x00) → cand.length ≤ 9 → (∀ b ∈ cand, b ≠ 0x00) →
    s.ctrl.rxq = 0x30 :: (pw ++ 0x00 :: 0x31 :: (cand ++ 0x00 :: rest)) →
    s.agenda = List.replicate (3 * pw.length + cand.length + 11) (.fg .ctrl) →
    ∃ t : State, Host.Core.run Sys2Proof.core (3 * pw.length + cand.length + 11) s = .next t
      ∧ t.hmi.rxq = s.hmi.rxq ++ [if cand = pw then 0x31 else 0x30] ∧ t.ctrl.rxq = rest
      ∧ t.ctrlShell.st = .wait ∧ t.ctrlShell.step = 0

/-- `STORE` changes in one place of the machine only: the copy step of `cmd_setpw`, which writes the text byte at `IDX` to `PW_BASE` + `IDX`
(rules R71, R72). -/
def Obligations.OnlySetpwWritesTheStore : Prop :=
  ∀ s t : State, step s = .next t → t.store ≠ s.store →
    s.ctrlShell.st = .setpw ∧ s.ctrlShell.step = 2 ∧ s.ctrlShell.idx ≠ s.ctrl.pbuf.len
    ∧ t.store = s.store.write (storeAddr s.params s.ctrlShell.idx.toNat) (s.ctrl.pbuf.byte s.ctrlShell.idx.toNat)

/-- What a control unit that runs its shell sends: only a verdict byte, and only from the last step of `C_VERIFY` (rules R109, R196 f). -/
def Obligations.ControlUnitSendsOnlyVerdicts : Prop :=
  ∀ (s t : State) (rest : List Event), s.agenda = .fg .ctrl :: rest → s.ctrl.fore = .shell → s.ctrl.port = [] →
    step s = .next t → t.hmi.rxq ≠ s.hmi.rxq →
    s.ctrlShell.st = .verify ∧ s.ctrlShell.step = 4
    ∧ (t.hmi.rxq = s.hmi.rxq ++ [0x31] ∨ t.hmi.rxq = s.hmi.rxq ++ [0x30])

/-! ## Responses and the HMI shell (file 43_hmi_shell.md) -/

/-- `rsp_match` through `H_VERIFY` steps 4 to 7: the byte 0x31 received into `RESP`, shown, held for the delay, and then the access is granted
to the action chosen (rules R226, R227). The return from the completed wait as a transition of its own is the model's (entry 3), and so
is that exec of a response does not look at `RESP` again in steps 5 to 7 (entry 13). -/
def Obligations.MatchGrantsTheChosenAction : Prop :=
  ∀ s : State, s.hmiShell.booted = true → s.hmi.timer.waiting = false → s.hmiShell.st = .verify →
    let h := s.hmiShell
    (∀ rest, h.step = 4 → s.hmi.rxq = 0x31 :: rest → exec .rspMatch s =
      .next { s with hmi := { s.hmi with rxq := rest }, hmiShell := { h with resp := 0x31, step := 5 } })
    ∧ (h.step = 5 → exec .rspMatch s = .next { s with disp := s.disp ++ [.ok], hmiShell := { h with step := 6 } })
    ∧ (h.step = 6 → s.hmi.act = .idle → s.hmi.timer.ticks = 0 → exec .rspMatch s =
      .next { s with hmi := { s.hmi with timer := s.hmi.timer.delaying 1 7811, act := .inWait } })
    ∧ (h.step = 6 → s.hmi.act = .inWait → exec .rspMatch s =
      .next { s with hmi := { s.hmi with act := .idle }, hmiShell := { h with step := 7 } })
    ∧ (h.step = 7 → h.action = .open → exec .rspMatch s = .next { s with hmiShell := { h with st := .opening, step := 0 } })
    ∧ (h.step = 7 → h.action = .change → exec .rspMatch s = .next { s with hmiShell := { h with st := .setting, step := 0 } })

/-- `rsp_nomatch` of any byte other than 0x31, through `H_VERIFY` steps 4 to 7: the byte received into `RESP`, shown as a failure, held for the
delay, and then a trial is spent: the last one locks the system, any other starts another round (rules R226, R227). The return from the
completed wait as a transition of its own is the model's (entry 3), and so is that exec of a response does not look at `RESP` again in
steps 5 to 7 (entry 13). -/
def Obligations.NomatchSpendsATrial : Prop :=
  ∀ (s : State) (b : Byte), b ≠ 0x31 → s.hmiShell.booted = true → s.hmi.timer.waiting = false → s.hmiShell.st = .verify →
    let h := s.hmiShell
    (∀ rest, h.step = 4 → s.hmi.rxq = b :: rest → exec (.rspNomatch b) s =
      .next { s with hmi := { s.hmi with rxq := rest }, hmiShell := { h with resp := b, step := 5 } })
    ∧ (h.step = 5 → exec (.rspNomatch b) s = .next { s with disp := s.disp ++ [.fail], hmiShell := { h with step := 6 } })
    ∧ (h.step = 6 → s.hmi.act = .idle → s.hmi.timer.ticks = 0 → exec (.rspNomatch b) s =
      .next { s with hmi := { s.hmi with timer := s.hmi.timer.delaying 1 7811, act := .inWait } })
    ∧ (h.step = 6 → s.hmi.act = .inWait → exec (.rspNomatch b) s =
      .next { s with hmi := { s.hmi with act := .idle }, hmiShell := { h with step := 7 } })
    ∧ (h.step = 7 → h.trials = 1 → exec (.rspNomatch b) s =
      .next { s with hmiShell := { h with trials := 0, st := .locked, step := 0 } })
    ∧ (h.step = 7 → h.trials = 2 ∨ h.trials = 3 → exec (.rspNomatch b) s =
      .next { s with hmiShell := { h with trials := h.trials - 1, st := .verify, step := 0 } })

/-- `H_CHOICE` (rule R223): a menu key is remembered and starts an access request with three trials, any other key prompts again, and with no key
the step blocks. -/
def Obligations.MenuKeyStartsAnAccessRequest : Prop :=
  ∀ (s : State) (rest : List Event), ShellTurn s .hmi rest → s.hmiShell.st = .choice → s.hmiShell.step = 0 →
    let u := s.turn .hmi rest
    let h := s.hmiShell
    (s.key = none → step s = .next u)
    ∧ (s.key = some s.params.keyOpen → step s = .next { u with
        key := none, hmiShell := { h with action := .open, trials := 3, st := .verify, step := 0 } })
    ∧ (s.params.keyChange ≠ s.params.keyOpen → s.key = some s.params.keyChange → step s = .next { u with
        key := none, hmiShell := { h with action := .change, trials := 3, st := .verify, step := 0 } })
    ∧ (∀ k, s.key = some k → k ≠ s.params.keyOpen → k ≠ s.params.keyChange →
      step s = .next { u with key := none, disp := s.disp ++ [.menu] })

/-- A capture's row begins with its prompt and an empty text: `H_VERIFY` 0 and `H_SETTING` 0 for `PBUF`, `H_SETTING` 1 for `XBUF` (rules R224, R226,
R230). That this is a transition of its own is the model's (entry 19). -/
def Obligations.CaptureBeginsWithPromptAndEmptyText : Prop :=
  ∀ (s : State) (rest : List Event), ShellTurn s .hmi rest → s.hmi.act = .idle →
    let u := s.turn .hmi rest
    (s.hmiShell.st = .verify ∨ s.hmiShell.st = .setting → s.hmiShell.step = 0 → step s = .next { u with
        hmi := { s.hmi with pbuf := { s.hmi.pbuf with len := 0 }, act := .inCapture }, disp := s.disp ++ [.enter] })
    ∧ (s.hmiShell.st = .setting → s.hmiShell.step = 1 → step s = .next { u with
        hmi := { s.hmi with xbuf := { s.hmi.xbuf with len := 0 }, act := .inCapture }, disp := s.disp ++ [.confirm] })

/-- The password capture in progress, at `H_VERIFY` 0 and `H_SETTING` 0 into `PBUF`, at `H_SETTING` 1 into `XBUF` (rules R37, R224): a key other than
the terminator is masked and joins the text, the terminator ends it, the tenth key is the fault `BufferOverflow`, and with no key the
step blocks. -/
def Obligations.CaptureTakesOneKeyAStep : Prop :=
  ∀ (s : State) (rest : List Event), ShellTurn s .hmi rest → s.hmi.act = .inCapture →
    let u := s.turn .hmi rest
    let n := s.hmi.pbuf.len
    let x := s.hmi.xbuf.len
    (s.hmiShell.st = .verify ∨ s.hmiShell.st = .setting → s.hmiShell.step = 0 →
      (s.key = none → step s = .next u)
      ∧ (s.key = some 13 → step s = .next { u with
          key := none
          hmi := { s.hmi with pbuf := { bytes := s.hmi.pbuf.bytes.setIfInBounds n.toNat 0x00, len := n }, act := .idle }
          hmiShell := { s.hmiShell with step := 1 } })
      ∧ (∀ k, s.key = some k → k ≠ 13 → n.toNat < 9 → step s = .next { u with
          key := none
          hmi := { s.hmi with pbuf := { bytes := s.hmi.pbuf.bytes.setIfInBounds n.toNat k, len := n + 1 } }
          disp := s.disp ++ [.mask] })
      ∧ (∀ k, s.key = some k → k ≠ 13 → n = 9 → step s = .fault (.bufferOverflow k)))
    ∧ (s.hmiShell.st = .setting → s.hmiShell.step = 1 →
      (s.key = none → step s = .next u)
      ∧ (s.key = some 13 → step s = .next { u with
          key := none
          hmi := { s.hmi with xbuf := { bytes := s.hmi.xbuf.bytes.setIfInBounds x.toNat 0x00, len := x }, act := .idle }
          hmiShell := { s.hmiShell with step := 2 } })
      ∧ (∀ k, s.key = some k → k ≠ 13 → x.toNat < 9 → step s = .next { u with
          key := none
          hmi := { s.hmi with xbuf := { bytes := s.hmi.xbuf.bytes.setIfInBounds x.toNat k, len := x + 1 } }
          disp := s.disp ++ [.mask] })
      ∧ (∀ k, s.key = some k → k ≠ 13 → x = 9 → step s = .fault (.bufferOverflow k)))

/-- `H_SETTING` step 2 (rules R225, R230): the entries match exactly when their lengths and every position agree; a match goes on to send the
password, a mismatch is shown and starts again after its delay. -/
def Obligations.SetupComparesTheTwoEntries : Prop :=
  ∀ (s : State) (rest : List Event), ShellTurn s .hmi rest → s.hmiShell.st = .setting → s.hmiShell.step = 2 →
    let u := s.turn .hmi rest
    let same := s.hmi.pbuf.len = s.hmi.xbuf.len ∧ ∀ i < s.hmi.pbuf.len.toNat, s.hmi.pbuf.byte i = s.hmi.xbuf.byte i
    (same → step s = .next { u with hmiShell := { s.hmiShell with step := 4 } })
    ∧ (¬same → step s = .next { u with disp := s.disp ++ [.mismatch], hmiShell := { s.hmiShell with step := 3 } })

/-- The HMI shell's rows that send an opcode byte, send the text or show one message (rules R222, R226, R228, R229, R230): the byte joins the
control unit's queue, or the message the display's requests, and the shell moves to the row's next place; the rows `H_VERIFY` 2 and
`H_SETTING` 5 are `send_text pbuf`, transition by transition, and move on when it has completed (rules R173, R192). -/
def Obligations.HmiRowsSendAndShow : Prop :=
  ∀ (s : State) (rest : List Event), ShellTurn s .hmi rest →
    let u := s.turn .hmi rest
    (s.hmi.act = .idle →
      ∀ row ∈ [(HmiState.verify, (1 : BitVec 5), (0x31 : Byte)), (.locked, 0, 0x33), (.opening, 0, 0x32), (.setting, 4, 0x30)],
        s.hmiShell.st = row.1 → s.hmiShell.step = row.2.1 →
        step s = .next { u with
          ctrl := { s.ctrl with rxq := s.ctrl.rxq ++ [row.2.2] }, hmiShell := { s.hmiShell with step := row.2.1 + 1 } })
    ∧ (∀ row ∈ [(HmiState.verify, (2 : BitVec 5)), (.setting, 5)], s.hmiShell.st = row.1 → s.hmiShell.step = row.2 →
      ∃ v : State, exec (.sendText .pbuf) u = .next v
        ∧ step s = .next { v with hmiShell := { s.hmiShell with step := if v.hmi.act = .idle then row.2 + 1 else row.2 } })
    ∧ ∀ row ∈ [(HmiState.idle, (0 : BitVec 5), DispMsg.menu, HmiState.choice, (0 : BitVec 5)),
        (.locked, 1, .locked, .locked, 2), (.opening, 1, .unlocking, .opening, 2), (.opening, 3, .count 3, .opening, 4),
        (.opening, 5, .count 2, .opening, 6), (.opening, 7, .count 1, .opening, 8), (.opening, 9, .locking, .opening, 10),
        (.setting, 6, .saved, .setting, 7)],
      s.hmiShell.st = row.1 → s.hmiShell.step = row.2.1 →
      step s = .next { u with
        disp := s.disp ++ [row.2.2.1], hmiShell := { s.hmiShell with st := row.2.2.2.1, step := row.2.2.2.2 } }

/-- The HMI shell's delay rows (rules R226, R228, R229, R230): each begins its `delay_1s` or `delay_15s` and, once the wait has completed, moves to
the row's next place. That the return from a completed wait is a transition of its own is the model's (entry 3). -/
def Obligations.HmiRowsTakeTheirDelays : Prop :=
  ∀ (s : State) (rest : List Event), ShellTurn s .hmi rest →
    let u := s.turn .hmi rest
    ∀ row ∈ [(HmiState.verify, (3 : BitVec 5), (1 : Tick), (7811 : Count), HmiState.verify, (4 : BitVec 5)),
        (.locked, 2, 2, 58593, .locked, 3), (.locked, 3, 2, 58593, .locked, 4), (.locked, 4, 2, 58593, .locked, 5),
        (.locked, 5, 2, 58593, .idle, 0), (.opening, 2, 2, 58593, .opening, 3), (.opening, 4, 1, 7811, .opening, 5),
        (.opening, 6, 1, 7811, .opening, 7), (.opening, 8, 1, 7811, .opening, 9), (.opening, 10, 2, 58593, .idle, 0),
        (.setting, 3, 1, 7811, .setting, 0), (.setting, 7, 1, 7811, .idle, 0)],
      s.hmiShell.st = row.1 → s.hmiShell.step = row.2.1 →
      (s.hmi.act = .idle → s.hmi.timer.ticks = 0 →
        step s = .next { u with hmi := { s.hmi with timer := s.hmi.timer.delaying row.2.2.1 row.2.2.2.1, act := .inWait } })
      ∧ (s.hmi.act = .inWait →
        step s = .next { u with
          hmi := { s.hmi with act := .idle }
          hmiShell := { s.hmiShell with st := row.2.2.2.2.1, step := row.2.2.2.2.2 } })

/-- The HMI unit's access policy in one step of the machine (rules R223, R227): `H_OPENING` is entered, and `H_SETTING` from a trial round, only
from the decision on a received 0x31 with that action chosen; `H_LOCKED` only from the decision on another byte with the last trial; and
`TRIALS` changes only by becoming 3 or, in that decision, by falling by 1. The control unit checks nothing of this: it opens and locks on
any opcode 0x32 and 0x33 (rules R198 b, R200 d). -/
def Obligations.AccessOnlyByMatchLockoutOnlyByTrials : Prop :=
  ∀ s t : State, s.Inv → step s = .next t →
    let h := s.hmiShell
    let h' := t.hmiShell
    (h'.st = .opening → h.st ≠ .opening → h.st = .verify ∧ h.step = 7 ∧ h.resp = 0x31 ∧ h.action = .open)
    ∧ (h'.st = .setting → h.st = .verify → h'.booted = true → h.step = 7 ∧ h.resp = 0x31 ∧ h.action = .change)
    ∧ (h'.st = .locked → h.st ≠ .locked → h.st = .verify ∧ h.step = 7 ∧ h.resp ≠ 0x31 ∧ h.trials = 1)
    ∧ (h'.trials ≠ h.trials → h'.trials = 3 ∨ (h.st = .verify ∧ h.step = 7 ∧ h.resp ≠ 0x31 ∧ h.trials = h'.trials + 1))

/-- A key event, in every state: it answers a `Key()` call that the HMI's running shell has open, in `(H_CHOICE, 0)` or inside a capture, and
that has no answer yet; where no such call is open, in the lockout for instance, or where the call has been answered, it changes nothing
(rules R52, R223, R224, R228; what becomes of such a key is the model's, entry 14). -/
def Obligations.KeysAreSeenOnlyByAnOpenCall : Prop :=
  ∀ (s : State) (k : Byte) (rest : List Event), s.agenda = .key k :: rest →
    let called := s.hmi.fore = .shell ∧ s.hmiShell.booted = true ∧ s.hmi.timer.waiting = false
      ∧ ((s.hmiShell.st = .choice ∧ s.hmiShell.step = 0) ∨ s.hmi.act = .inCapture)
    (called → s.key = none → step s = .next { s with agenda := rest, key := some k })
    ∧ (called → s.key ≠ none → step s = .next { s with agenda := rest })
    ∧ (¬called → step s = .next { s with agenda := rest })

/-! ## The machine -/

/-- A step runs the decoded instruction: the word on the operation port, the opcode byte or the handler's command on the control unit, the
response on the HMI unit. On the port, an operation that has completed leaves it and raises the done strobe; one that has not holds the
strobe back (rules R103, R191, R226). That the words presented are a list which a completed word leaves, and when the done strobe falls,
are the model's choice (entry 5); so is that the later steps of a handler, and of a received response, are exec of that command and
response (entry 13). -/
def Obligations.StepRunsTheDecodedInstruction : Prop :=
  (∀ (s : State) (r : Role) (rest : List Event) (w : Opw) (ws : List Opw), s.agenda = .fg r :: rest →
    (s.timer r).waiting = false → (s.block r).port = w :: ws →
    step s =
      match exec (decodeOpw w) (s.turn r rest) with
      | .next t => .next (t.setBlock r
          (if (t.block r).act = .idle then { t.block r with port := (t.block r).port.tail, opDone := true }
           else { t.block r with opDone := false }))
      | .fault e => .fault e
      | .refused e => .refused e)
  ∧ (∀ (s : State) (rest : List Event), ShellTurn s .ctrl rest →
    (∀ b q, s.ctrlShell.st = .wait → s.ctrl.rxq = b :: q → step s = exec (decodeCmd b) (s.turn .ctrl rest))
    ∧ (s.ctrlShell.st = .wait → s.ctrl.rxq = [] → step s = .next (s.turn .ctrl rest))
    ∧ (s.ctrlShell.st = .setpw → step s = exec .cmdSetpw (s.turn .ctrl rest))
    ∧ (s.ctrlShell.st = .verify → step s = exec .cmdVerify (s.turn .ctrl rest))
    ∧ (s.ctrlShell.st = .open → step s = exec .cmdOpen (s.turn .ctrl rest))
    ∧ (s.ctrlShell.st = .lock → step s = exec .cmdLock (s.turn .ctrl rest)))
  ∧ (∀ (s : State) (rest : List Event), ShellTurn s .hmi rest → s.hmiShell.st = .verify →
    (∀ b q, s.hmiShell.step = 4 → s.hmi.rxq = b :: q → step s = exec (decodeRsp b) (s.turn .hmi rest))
    ∧ (s.hmiShell.step = 4 → s.hmi.rxq = [] → step s = .next (s.turn .hmi rest))
    ∧ (s.hmiShell.step = 5 ∨ s.hmiShell.step = 6 ∨ s.hmiShell.step = 7 →
      step s = exec (decodeRsp s.hmiShell.resp) (s.turn .hmi rest)))

/-- The boot step, a shell's first transition after reset: the callback is registered and `BOOTED` set, nothing else (rule R303). -/
def Obligations.BootRegistersTheCallback : Prop :=
  ∀ (s : State) (r : Role) (rest : List Event), s.agenda = .fg r :: rest → (s.block r).fore = .shell → (s.block r).port = [] →
    (s.block r).ready = true → s.booted r = false →
    step s = .next (((s.turn r rest).setBlock r { s.block r with timer := { (s.block r).timer with cb := .tickInc } }).setBooted r)

/-- The reset of one unit: its registers at their reset values, `PWLEN` somewhere in 0 to 9, its queue empty; `STORE`, the other unit, and what it
had sent, as they were (rules R57, R300). -/
def Obligations.ResetOfOneUnit : Prop :=
  (∀ (s : State) (f : Foreground) (rest : List Event), s.agenda = .reset .ctrl f :: rest → ∃ t, step s = .next t
    ∧ t.ctrl.timer = Timer.reset ∧ t.ctrl.rxq = [] ∧ t.ctrl.pbuf.len = 0 ∧ t.ctrl.xbuf.len = 0
    ∧ t.ctrlShell.st = .wait ∧ t.ctrlShell.step = 0 ∧ t.ctrlShell.idx = 0 ∧ t.ctrlShell.booted = false
    ∧ t.ctrlShell.motor = .stopped ∧ t.ctrlShell.alarm = .off ∧ t.ctrlShell.pwlen.toNat ≤ 9
    ∧ t.store = s.store ∧ t.hmi = s.hmi ∧ t.hmiShell = s.hmiShell)
  ∧ (∀ (s : State) (f : Foreground) (rest : List Event), s.agenda = .reset .hmi f :: rest → ∃ t, step s = .next t
    ∧ t.hmi.timer = Timer.reset ∧ t.hmi.rxq = [] ∧ t.hmi.pbuf.len = 0 ∧ t.hmi.xbuf.len = 0
    ∧ t.hmiShell = { st := .setting, step := 0, idx := 0, booted := false, trials := 3, action := .open, resp := 0x00 }
    ∧ t.store = s.store ∧ t.ctrl = s.ctrl ∧ t.ctrlShell = s.ctrlShell)

/-- What the reset state holds where the spec gives a value (rules R57, R302). -/
def Obligations.ResetStateHoldsTheSpecsValues : Prop :=
  (∀ r, (State.reset.timer r) = { count := 0, compare := 0, psel := 0, mode := .free, run := false, ie := false, pending := false
                                  pdiv := 0, cb := .none, ticks := 0, waiting := false, wtarget := 0 }
    ∧ (State.reset.block r).rxq = [] ∧ (State.reset.block r).pbuf.len = 0 ∧ (State.reset.block r).xbuf.len = 0)
  ∧ State.reset.hmiShell = { st := .setting, step := 0, idx := 0, booted := false, trials := 3, action := .open, resp := 0x00 }
  ∧ State.reset.ctrlShell.st = .wait ∧ State.reset.ctrlShell.step = 0 ∧ State.reset.ctrlShell.idx = 0
  ∧ State.reset.ctrlShell.booted = false ∧ State.reset.ctrlShell.motor = .stopped ∧ State.reset.ctrlShell.alarm = .off

/-- The timer invariants (a) to (e) of rule R33 hold on both units after reset, and every step keeps them, whatever the rest of the
state. -/
def Obligations.StepsKeepTheTimerInvariants : Prop :=
  (∀ r, (State.reset.timer r).Inv)
  ∧ ∀ s t : State, (∀ r, (s.timer r).Inv) → step s = .next t → ∀ r, (t.timer r).Inv

/-- Every step keeps the system's invariants: rule R33, the lengths, the step numbers, `MOTOR` and `ALARM` as the sequence position has them,
`TRIALS` left in a trial round, the callback registered once booted, the writes inside the password region (rules R33, R36, R37, R39,
R40, R42 to R44, R70, R303). -/
def Obligations.StepsKeepTheSystemInvariants : Prop :=
  ∀ s t : State, s.Inv → step s = .next t → t.Inv

/-- The reset state meets the system's invariants. -/
def Obligations.ResetMeetsTheSystemInvariants : Prop := State.reset.Inv
end

