-- ==== Sys2Proof/Laws/Memory.lean ====
section
/-! SUPPORT. The laws of `STORE`: read after write, the frame of a write, and the canonical form kept. -/

namespace Sys2Proof.Machine

@[simp] theorem Memory.read_nil (a : Nat) : Memory.read [] a = none := rfl

@[simp] theorem Memory.read_cons (a : Nat) (v : Byte) (m : Memory) (b : Nat) :
    Memory.read ((a, v) :: m) b = if b = a then some v else Memory.read m b := rfl

theorem Memory.read_write_same (m : Memory) (a : Nat) (b : Byte) : (m.write a b).read a = some b := by
  induction m with
  | nil => simp [Memory.write]
  | cons c m ih =>
    obtain ⟨x, v⟩ := c
    simp only [Memory.write]
    split
    · simp
    · split
      · simp
      · simp [*]

theorem Memory.read_write_other (m : Memory) {a c : Nat} (b : Byte) (h : c ≠ a) : (m.write a b).read c = m.read c := by
  induction m with
  | nil => simp [Memory.write, h]
  | cons d m ih =>
    obtain ⟨x, v⟩ := d
    simp only [Memory.write]
    split
    · simp [h]
    · split
      · rename_i hx
        subst hx
        simp [h]
      · simp [ih]

theorem Memory.mem_write {m : Memory} {a : Nat} {b : Byte} {c : Host.Cell} (h : c ∈ m.write a b) : c = (a, b) ∨ c ∈ m := by
  induction m with
  | nil => simpa [Memory.write] using h
  | cons d m ih =>
    obtain ⟨x, v⟩ := d
    simp only [Memory.write] at h
    split at h
    · simpa using h
    · split at h
      · rcases List.mem_cons.1 h with h | h
        · exact .inl h
        · exact .inr (List.mem_cons_of_mem _ h)
      · rcases List.mem_cons.1 h with h | h
        · exact .inr (h ▸ List.mem_cons_self)
        · exact (ih h).imp id (List.mem_cons_of_mem _)

theorem Memory.write_wf {m : Memory} (h : Memory.wf m) (a : Nat) (b : Byte) : Memory.wf (m.write a b) := by
  induction m with
  | nil => simp [Memory.write, Memory.wf]
  | cons d m ih =>
    obtain ⟨x, v⟩ := d
    obtain ⟨hd, hm⟩ := List.pairwise_cons.1 h
    simp only [Memory.write]
    split
    · rename_i hx
      refine List.pairwise_cons.2 ⟨fun c hc => ?_, h⟩
      rcases List.mem_cons.1 hc with rfl | hc
      · exact hx
      · exact hx.trans (hd c hc)
    · split
      · rename_i hx
        subst hx
        exact List.pairwise_cons.2 ⟨hd, hm⟩
      · refine List.pairwise_cons.2 ⟨fun c hc => ?_, ih hm⟩
        rcases Memory.mem_write hc with rfl | hc
        · show x < a
          omega
        · exact hd c hc

theorem memRead_write_same (m : Memory) (a : Nat) (b : Byte) : memRead (m.write a b) a = b := by
  simp [memRead, Memory.read_write_same]

theorem memRead_write_other (m : Memory) {a c : Nat} (b : Byte) (h : c ≠ a) : memRead (m.write a b) c = memRead m c := by
  simp [memRead, Memory.read_write_other m b h]

/-- The password region does not wrap: rule R7's constraint makes `PW_BASE + i` an address for every place of the region (rule
R141). -/
theorem storeAddr_of_wf {p : Params} (h : p.wf = true) {i : Nat} (hi : i ≤ 8) : storeAddr p i = p.pwBase + i := by
  have : p.pwBase + 8 < 2 ^ p.stAddrW := by
    simp only [Params.wf, Bool.and_eq_true, decide_eq_true_eq] at h
    exact h.2
  exact Nat.mod_eq_of_lt (by omega)

/-- The parameters of rule R7 meet its constraints whatever their draws. -/
theorem Config_params_wf : Config.params.wf = true := by
  have h1 := Config.menuKeys.1.isLt
  have h2 := Config.menuKeys.2.isLt
  have hp : 16 ≤ 2 ^ (Config.addrWidthDraw + 4) := by
    rw [Nat.pow_add]
    have := Nat.one_le_two_pow (n := Config.addrWidthDraw)
    omega
  have hm : Config.pwBaseDraw % (2 ^ (Config.addrWidthDraw + 4) - 8) < 2 ^ (Config.addrWidthDraw + 4) - 8 :=
    Nat.mod_lt _ (by omega)
  simp only [Params.wf, Config.params, Config.skip, Bool.and_eq_true, bne_iff_ne, ne_eq, BitVec.toNat_eq,
    BitVec.toNat_ofNat]
  refine ⟨⟨⟨?_, ?_⟩, ?_⟩, decide_eq_true (by omega)⟩ <;> (repeat' split) <;> omega

end Sys2Proof.Machine
end

