-- ==== Sys2Proof/Laws/State.lean ====
section
/-! SUPPORT. What each record update leaves and writes, one lemma per field. -/

namespace Sys2Proof.Machine

/-! ## One unit replaced -/

@[simp] theorem Role_peer_peer (r : Role) : r.peer.peer = r := by cases r <;> rfl

@[simp] theorem Role_peer_ne (r : Role) : r.peer ≠ r := by cases r <;> decide

@[simp] theorem Role_ne_peer (r : Role) : r ≠ r.peer := by cases r <;> decide

@[simp] theorem State.block_hmi (s : State) : s.block .hmi = s.hmi := rfl

@[simp] theorem State.block_ctrl (s : State) : s.block .ctrl = s.ctrl := rfl

@[simp] theorem State.setBlock_hmi (s : State) (b : Block) : s.setBlock .hmi b = { s with hmi := b } := rfl

@[simp] theorem State.setBlock_ctrl (s : State) (b : Block) : s.setBlock .ctrl b = { s with ctrl := b } := rfl

@[simp] theorem State.block_setBlock (s : State) (r : Role) (b : Block) : (s.setBlock r b).block r = b := by cases r <;> rfl

@[simp] theorem State.block_setBlock_peer (s : State) (r : Role) (b : Block) :
    (s.setBlock r b).block r.peer = s.block r.peer := by cases r <;> rfl

@[simp] theorem State.block_setBlock_of_peer (s : State) (r : Role) (b : Block) :
    (s.setBlock r.peer b).block r = s.block r := by cases r <;> rfl

theorem State.block_setBlock_ne (s : State) {r q : Role} (b : Block) (h : q ≠ r) : (s.setBlock r b).block q = s.block q := by
  cases r <;> cases q <;> first | rfl | exact absurd rfl h

@[simp] theorem State.setBlock_setBlock (s : State) (r : Role) (b c : Block) :
    (s.setBlock r b).setBlock r c = s.setBlock r c := by cases r <;> rfl

@[simp] theorem State.setBlock_block (s : State) (r : Role) : s.setBlock r (s.block r) = s := by cases r <;> rfl

theorem State.setBlock_comm (s : State) (r : Role) (b c : Block) :
    (s.setBlock r b).setBlock r.peer c = (s.setBlock r.peer c).setBlock r b := by cases r <;> rfl

@[simp] theorem State.setBlock_params (s : State) (r : Role) (b : Block) : (s.setBlock r b).params = s.params := by cases r <;> rfl

@[simp] theorem State.setBlock_hmiShell (s : State) (r : Role) (b : Block) : (s.setBlock r b).hmiShell = s.hmiShell := by cases r <;> rfl

@[simp] theorem State.setBlock_ctrlShell (s : State) (r : Role) (b : Block) : (s.setBlock r b).ctrlShell = s.ctrlShell := by cases r <;> rfl

@[simp] theorem State.setBlock_store (s : State) (r : Role) (b : Block) : (s.setBlock r b).store = s.store := by cases r <;> rfl

@[simp] theorem State.setBlock_key (s : State) (r : Role) (b : Block) : (s.setBlock r b).key = s.key := by cases r <;> rfl

@[simp] theorem State.setBlock_disp (s : State) (r : Role) (b : Block) : (s.setBlock r b).disp = s.disp := by cases r <;> rfl

@[simp] theorem State.setBlock_cur (s : State) (r : Role) (b : Block) : (s.setBlock r b).cur = s.cur := by cases r <;> rfl

@[simp] theorem State.setBlock_agenda (s : State) (r : Role) (b : Block) : (s.setBlock r b).agenda = s.agenda := by cases r <;> rfl

@[simp] theorem State.setBlock_turns (s : State) (r : Role) (b : Block) : (s.setBlock r b).turns = s.turns := by cases r <;> rfl

@[simp] theorem State.setBlock_draws (s : State) (r : Role) (b : Block) : (s.setBlock r b).draws = s.draws := by cases r <;> rfl

@[simp] theorem State.setBlock_booted (s : State) (r q : Role) (b : Block) : (s.setBlock r b).booted q = s.booted q := by
  cases r <;> cases q <;> rfl

@[simp] theorem State.timer_eq (s : State) (r : Role) : s.timer r = (s.block r).timer := rfl

@[simp] theorem State.setTimer_eq (s : State) (r : Role) (t : Timer) :
    s.setTimer r t = s.setBlock r { s.block r with timer := t } := rfl

@[simp] theorem State.setAct_eq (s : State) (r : Role) (a : Activity) :
    s.setAct r a = s.setBlock r { s.block r with act := a } := rfl

@[simp] theorem State.push_eq (s : State) (r : Role) (b : Byte) :
    s.push r b = s.setBlock r { s.block r with rxq := (s.block r).rxq ++ [b] } := rfl

@[simp] theorem State.presentFirst_eq (s : State) (r : Role) (ws : List Opw) :
    s.presentFirst r ws = s.setBlock r { s.block r with port := ws ++ (s.block r).port } := rfl

@[simp] theorem State.setBooted_block (s : State) (r q : Role) : (s.setBooted r).block q = s.block q := by
  cases r <;> cases q <;> rfl

@[simp] theorem State.setBooted_booted (s : State) (r : Role) : (s.setBooted r).booted r = true := by cases r <;> rfl

/-! ## Shell registers, `STORE`, display -/

@[simp] theorem State.setBooted_params (s : State) (r : Role) : (s.setBooted r).params = s.params := by cases r <;> rfl

@[simp] theorem State.setBooted_hmi (s : State) (r : Role) : (s.setBooted r).hmi = s.hmi := by cases r <;> rfl

@[simp] theorem State.setBooted_ctrl (s : State) (r : Role) : (s.setBooted r).ctrl = s.ctrl := by cases r <;> rfl

@[simp] theorem State.setBooted_store (s : State) (r : Role) : (s.setBooted r).store = s.store := by cases r <;> rfl

@[simp] theorem State.setBooted_key (s : State) (r : Role) : (s.setBooted r).key = s.key := by cases r <;> rfl

@[simp] theorem State.setBooted_disp (s : State) (r : Role) : (s.setBooted r).disp = s.disp := by cases r <;> rfl

@[simp] theorem State.setBooted_cur (s : State) (r : Role) : (s.setBooted r).cur = s.cur := by cases r <;> rfl

@[simp] theorem State.setBooted_agenda (s : State) (r : Role) : (s.setBooted r).agenda = s.agenda := by cases r <;> rfl

@[simp] theorem State.setBooted_turns (s : State) (r : Role) : (s.setBooted r).turns = s.turns := by cases r <;> rfl

@[simp] theorem State.setBooted_draws (s : State) (r : Role) : (s.setBooted r).draws = s.draws := by cases r <;> rfl

@[simp] theorem State.ctrlGo_params (s : State) (st : CtrlState) (k : BitVec 5) : (s.ctrlGo st k).params = s.params := rfl

@[simp] theorem State.ctrlGo_hmi (s : State) (st : CtrlState) (k : BitVec 5) : (s.ctrlGo st k).hmi = s.hmi := rfl

@[simp] theorem State.ctrlGo_hmiShell (s : State) (st : CtrlState) (k : BitVec 5) : (s.ctrlGo st k).hmiShell = s.hmiShell := rfl

@[simp] theorem State.ctrlGo_ctrl (s : State) (st : CtrlState) (k : BitVec 5) : (s.ctrlGo st k).ctrl = s.ctrl := rfl

@[simp] theorem State.ctrlGo_store (s : State) (st : CtrlState) (k : BitVec 5) : (s.ctrlGo st k).store = s.store := rfl

@[simp] theorem State.ctrlGo_key (s : State) (st : CtrlState) (k : BitVec 5) : (s.ctrlGo st k).key = s.key := rfl

@[simp] theorem State.ctrlGo_disp (s : State) (st : CtrlState) (k : BitVec 5) : (s.ctrlGo st k).disp = s.disp := rfl

@[simp] theorem State.ctrlGo_cur (s : State) (st : CtrlState) (k : BitVec 5) : (s.ctrlGo st k).cur = s.cur := rfl

@[simp] theorem State.ctrlGo_agenda (s : State) (st : CtrlState) (k : BitVec 5) : (s.ctrlGo st k).agenda = s.agenda := rfl

@[simp] theorem State.ctrlGo_turns (s : State) (st : CtrlState) (k : BitVec 5) : (s.ctrlGo st k).turns = s.turns := rfl

@[simp] theorem State.ctrlGo_draws (s : State) (st : CtrlState) (k : BitVec 5) : (s.ctrlGo st k).draws = s.draws := rfl

@[simp] theorem State.ctrlGo_ctrlShell (s : State) (st : CtrlState) (k : BitVec 5) :
    (s.ctrlGo st k).ctrlShell = { s.ctrlShell with st := st, step := k } := rfl

@[simp] theorem State.ctrlSetIdx_params (s : State) (i : BitVec 4) : (s.ctrlSetIdx i).params = s.params := rfl

@[simp] theorem State.ctrlSetIdx_hmi (s : State) (i : BitVec 4) : (s.ctrlSetIdx i).hmi = s.hmi := rfl

@[simp] theorem State.ctrlSetIdx_hmiShell (s : State) (i : BitVec 4) : (s.ctrlSetIdx i).hmiShell = s.hmiShell := rfl

@[simp] theorem State.ctrlSetIdx_ctrl (s : State) (i : BitVec 4) : (s.ctrlSetIdx i).ctrl = s.ctrl := rfl

@[simp] theorem State.ctrlSetIdx_store (s : State) (i : BitVec 4) : (s.ctrlSetIdx i).store = s.store := rfl

@[simp] theorem State.ctrlSetIdx_key (s : State) (i : BitVec 4) : (s.ctrlSetIdx i).key = s.key := rfl

@[simp] theorem State.ctrlSetIdx_disp (s : State) (i : BitVec 4) : (s.ctrlSetIdx i).disp = s.disp := rfl

@[simp] theorem State.ctrlSetIdx_cur (s : State) (i : BitVec 4) : (s.ctrlSetIdx i).cur = s.cur := rfl

@[simp] theorem State.ctrlSetIdx_agenda (s : State) (i : BitVec 4) : (s.ctrlSetIdx i).agenda = s.agenda := rfl

@[simp] theorem State.ctrlSetIdx_turns (s : State) (i : BitVec 4) : (s.ctrlSetIdx i).turns = s.turns := rfl

@[simp] theorem State.ctrlSetIdx_draws (s : State) (i : BitVec 4) : (s.ctrlSetIdx i).draws = s.draws := rfl

@[simp] theorem State.ctrlSetIdx_ctrlShell (s : State) (i : BitVec 4) :
    (s.ctrlSetIdx i).ctrlShell = { s.ctrlShell with idx := i } := rfl

@[simp] theorem State.setPwlen_params (s : State) (n : BitVec 4) : (s.setPwlen n).params = s.params := rfl

@[simp] theorem State.setPwlen_hmi (s : State) (n : BitVec 4) : (s.setPwlen n).hmi = s.hmi := rfl

@[simp] theorem State.setPwlen_hmiShell (s : State) (n : BitVec 4) : (s.setPwlen n).hmiShell = s.hmiShell := rfl

@[simp] theorem State.setPwlen_ctrl (s : State) (n : BitVec 4) : (s.setPwlen n).ctrl = s.ctrl := rfl

@[simp] theorem State.setPwlen_store (s : State) (n : BitVec 4) : (s.setPwlen n).store = s.store := rfl

@[simp] theorem State.setPwlen_key (s : State) (n : BitVec 4) : (s.setPwlen n).key = s.key := rfl

@[simp] theorem State.setPwlen_disp (s : State) (n : BitVec 4) : (s.setPwlen n).disp = s.disp := rfl

@[simp] theorem State.setPwlen_cur (s : State) (n : BitVec 4) : (s.setPwlen n).cur = s.cur := rfl

@[simp] theorem State.setPwlen_agenda (s : State) (n : BitVec 4) : (s.setPwlen n).agenda = s.agenda := rfl

@[simp] theorem State.setPwlen_turns (s : State) (n : BitVec 4) : (s.setPwlen n).turns = s.turns := rfl

@[simp] theorem State.setPwlen_draws (s : State) (n : BitVec 4) : (s.setPwlen n).draws = s.draws := rfl

@[simp] theorem State.setPwlen_ctrlShell (s : State) (n : BitVec 4) :
    (s.setPwlen n).ctrlShell = { s.ctrlShell with pwlen := n } := rfl

@[simp] theorem State.setMotor_params (s : State) (m : Motor) : (s.setMotor m).params = s.params := rfl

@[simp] theorem State.setMotor_hmi (s : State) (m : Motor) : (s.setMotor m).hmi = s.hmi := rfl

@[simp] theorem State.setMotor_hmiShell (s : State) (m : Motor) : (s.setMotor m).hmiShell = s.hmiShell := rfl

@[simp] theorem State.setMotor_ctrl (s : State) (m : Motor) : (s.setMotor m).ctrl = s.ctrl := rfl

@[simp] theorem State.setMotor_store (s : State) (m : Motor) : (s.setMotor m).store = s.store := rfl

@[simp] theorem State.setMotor_key (s : State) (m : Motor) : (s.setMotor m).key = s.key := rfl

@[simp] theorem State.setMotor_disp (s : State) (m : Motor) : (s.setMotor m).disp = s.disp := rfl

@[simp] theorem State.setMotor_cur (s : State) (m : Motor) : (s.setMotor m).cur = s.cur := rfl

@[simp] theorem State.setMotor_agenda (s : State) (m : Motor) : (s.setMotor m).agenda = s.agenda := rfl

@[simp] theorem State.setMotor_turns (s : State) (m : Motor) : (s.setMotor m).turns = s.turns := rfl

@[simp] theorem State.setMotor_draws (s : State) (m : Motor) : (s.setMotor m).draws = s.draws := rfl

@[simp] theorem State.setMotor_ctrlShell (s : State) (m : Motor) :
    (s.setMotor m).ctrlShell = { s.ctrlShell with motor := m } := rfl

@[simp] theorem State.setAlarm_params (s : State) (a : Alarm) : (s.setAlarm a).params = s.params := rfl

@[simp] theorem State.setAlarm_hmi (s : State) (a : Alarm) : (s.setAlarm a).hmi = s.hmi := rfl

@[simp] theorem State.setAlarm_hmiShell (s : State) (a : Alarm) : (s.setAlarm a).hmiShell = s.hmiShell := rfl

@[simp] theorem State.setAlarm_ctrl (s : State) (a : Alarm) : (s.setAlarm a).ctrl = s.ctrl := rfl

@[simp] theorem State.setAlarm_store (s : State) (a : Alarm) : (s.setAlarm a).store = s.store := rfl

@[simp] theorem State.setAlarm_key (s : State) (a : Alarm) : (s.setAlarm a).key = s.key := rfl

@[simp] theorem State.setAlarm_disp (s : State) (a : Alarm) : (s.setAlarm a).disp = s.disp := rfl

@[simp] theorem State.setAlarm_cur (s : State) (a : Alarm) : (s.setAlarm a).cur = s.cur := rfl

@[simp] theorem State.setAlarm_agenda (s : State) (a : Alarm) : (s.setAlarm a).agenda = s.agenda := rfl

@[simp] theorem State.setAlarm_turns (s : State) (a : Alarm) : (s.setAlarm a).turns = s.turns := rfl

@[simp] theorem State.setAlarm_draws (s : State) (a : Alarm) : (s.setAlarm a).draws = s.draws := rfl

@[simp] theorem State.setAlarm_ctrlShell (s : State) (a : Alarm) :
    (s.setAlarm a).ctrlShell = { s.ctrlShell with alarm := a } := rfl

@[simp] theorem State.hmiGo_params (s : State) (st : HmiState) (k : BitVec 5) : (s.hmiGo st k).params = s.params := rfl

@[simp] theorem State.hmiGo_hmi (s : State) (st : HmiState) (k : BitVec 5) : (s.hmiGo st k).hmi = s.hmi := rfl

@[simp] theorem State.hmiGo_ctrl (s : State) (st : HmiState) (k : BitVec 5) : (s.hmiGo st k).ctrl = s.ctrl := rfl

@[simp] theorem State.hmiGo_ctrlShell (s : State) (st : HmiState) (k : BitVec 5) : (s.hmiGo st k).ctrlShell = s.ctrlShell := rfl

@[simp] theorem State.hmiGo_store (s : State) (st : HmiState) (k : BitVec 5) : (s.hmiGo st k).store = s.store := rfl

@[simp] theorem State.hmiGo_key (s : State) (st : HmiState) (k : BitVec 5) : (s.hmiGo st k).key = s.key := rfl

@[simp] theorem State.hmiGo_disp (s : State) (st : HmiState) (k : BitVec 5) : (s.hmiGo st k).disp = s.disp := rfl

@[simp] theorem State.hmiGo_cur (s : State) (st : HmiState) (k : BitVec 5) : (s.hmiGo st k).cur = s.cur := rfl

@[simp] theorem State.hmiGo_agenda (s : State) (st : HmiState) (k : BitVec 5) : (s.hmiGo st k).agenda = s.agenda := rfl

@[simp] theorem State.hmiGo_turns (s : State) (st : HmiState) (k : BitVec 5) : (s.hmiGo st k).turns = s.turns := rfl

@[simp] theorem State.hmiGo_draws (s : State) (st : HmiState) (k : BitVec 5) : (s.hmiGo st k).draws = s.draws := rfl

@[simp] theorem State.hmiGo_hmiShell (s : State) (st : HmiState) (k : BitVec 5) :
    (s.hmiGo st k).hmiShell = { s.hmiShell with st := st, step := k } := rfl

@[simp] theorem State.storeByte_params (s : State) (i : Nat) (b : Byte) : (s.storeByte i b).params = s.params := rfl

@[simp] theorem State.storeByte_hmi (s : State) (i : Nat) (b : Byte) : (s.storeByte i b).hmi = s.hmi := rfl

@[simp] theorem State.storeByte_hmiShell (s : State) (i : Nat) (b : Byte) : (s.storeByte i b).hmiShell = s.hmiShell := rfl

@[simp] theorem State.storeByte_ctrl (s : State) (i : Nat) (b : Byte) : (s.storeByte i b).ctrl = s.ctrl := rfl

@[simp] theorem State.storeByte_ctrlShell (s : State) (i : Nat) (b : Byte) : (s.storeByte i b).ctrlShell = s.ctrlShell := rfl

@[simp] theorem State.storeByte_key (s : State) (i : Nat) (b : Byte) : (s.storeByte i b).key = s.key := rfl

@[simp] theorem State.storeByte_disp (s : State) (i : Nat) (b : Byte) : (s.storeByte i b).disp = s.disp := rfl

@[simp] theorem State.storeByte_cur (s : State) (i : Nat) (b : Byte) : (s.storeByte i b).cur = s.cur := rfl

@[simp] theorem State.storeByte_agenda (s : State) (i : Nat) (b : Byte) : (s.storeByte i b).agenda = s.agenda := rfl

@[simp] theorem State.storeByte_turns (s : State) (i : Nat) (b : Byte) : (s.storeByte i b).turns = s.turns := rfl

@[simp] theorem State.storeByte_draws (s : State) (i : Nat) (b : Byte) : (s.storeByte i b).draws = s.draws := rfl

@[simp] theorem State.storeByte_store (s : State) (i : Nat) (b : Byte) :
    (s.storeByte i b).store = s.store.write (storeAddr s.params i) b := rfl

@[simp] theorem State.show_params (s : State) (m : DispMsg) : (s.show m).params = s.params := rfl

@[simp] theorem State.show_hmi (s : State) (m : DispMsg) : (s.show m).hmi = s.hmi := rfl

@[simp] theorem State.show_hmiShell (s : State) (m : DispMsg) : (s.show m).hmiShell = s.hmiShell := rfl

@[simp] theorem State.show_ctrl (s : State) (m : DispMsg) : (s.show m).ctrl = s.ctrl := rfl

@[simp] theorem State.show_ctrlShell (s : State) (m : DispMsg) : (s.show m).ctrlShell = s.ctrlShell := rfl

@[simp] theorem State.show_store (s : State) (m : DispMsg) : (s.show m).store = s.store := rfl

@[simp] theorem State.show_key (s : State) (m : DispMsg) : (s.show m).key = s.key := rfl

@[simp] theorem State.show_cur (s : State) (m : DispMsg) : (s.show m).cur = s.cur := rfl

@[simp] theorem State.show_agenda (s : State) (m : DispMsg) : (s.show m).agenda = s.agenda := rfl

@[simp] theorem State.show_turns (s : State) (m : DispMsg) : (s.show m).turns = s.turns := rfl

@[simp] theorem State.show_draws (s : State) (m : DispMsg) : (s.show m).draws = s.draws := rfl

@[simp] theorem State.show_disp (s : State) (m : DispMsg) : (s.show m).disp = s.disp ++ [m] := rfl

@[simp] theorem State.ctrlGo_block (s : State) (st : CtrlState) (k : BitVec 5) (r : Role) : (s.ctrlGo st k).block r = s.block r := by cases r <;> rfl

@[simp] theorem State.ctrlSetIdx_block (s : State) (i : BitVec 4) (r : Role) : (s.ctrlSetIdx i).block r = s.block r := by cases r <;> rfl

@[simp] theorem State.setPwlen_block (s : State) (n : BitVec 4) (r : Role) : (s.setPwlen n).block r = s.block r := by cases r <;> rfl

@[simp] theorem State.setMotor_block (s : State) (m : Motor) (r : Role) : (s.setMotor m).block r = s.block r := by cases r <;> rfl

@[simp] theorem State.setAlarm_block (s : State) (a : Alarm) (r : Role) : (s.setAlarm a).block r = s.block r := by cases r <;> rfl

@[simp] theorem State.hmiGo_block (s : State) (st : HmiState) (k : BitVec 5) (r : Role) : (s.hmiGo st k).block r = s.block r := by cases r <;> rfl

@[simp] theorem State.storeByte_block (s : State) (i : Nat) (b : Byte) (r : Role) : (s.storeByte i b).block r = s.block r := by cases r <;> rfl

@[simp] theorem State.show_block (s : State) (m : DispMsg) (r : Role) : (s.show m).block r = s.block r := by cases r <;> rfl

/-! ## Timer -/

@[simp] theorem Timer.armFlags_count (t : Timer) : (t.armFlags).count = t.count := rfl

@[simp] theorem Timer.armFlags_compare (t : Timer) : (t.armFlags).compare = t.compare := rfl

@[simp] theorem Timer.armFlags_psel (t : Timer) : (t.armFlags).psel = t.psel := rfl

@[simp] theorem Timer.armFlags_mode (t : Timer) : (t.armFlags).mode = t.mode := rfl

@[simp] theorem Timer.armFlags_run (t : Timer) : (t.armFlags).run = true := rfl

@[simp] theorem Timer.armFlags_ie (t : Timer) : (t.armFlags).ie = true := rfl

@[simp] theorem Timer.armFlags_pending (t : Timer) : (t.armFlags).pending = false := rfl

@[simp] theorem Timer.armFlags_pdiv (t : Timer) : (t.armFlags).pdiv = t.pdiv := rfl

@[simp] theorem Timer.armFlags_cb (t : Timer) : (t.armFlags).cb = t.cb := rfl

@[simp] theorem Timer.armFlags_ticks (t : Timer) : (t.armFlags).ticks = t.ticks := rfl

@[simp] theorem Timer.armFlags_waiting (t : Timer) : (t.armFlags).waiting = t.waiting := rfl

@[simp] theorem Timer.armFlags_wtarget (t : Timer) : (t.armFlags).wtarget = t.wtarget := rfl

@[simp] theorem Timer.clearFlags_count (t : Timer) : (t.clearFlags).count = t.count := rfl

@[simp] theorem Timer.clearFlags_compare (t : Timer) : (t.clearFlags).compare = t.compare := rfl

@[simp] theorem Timer.clearFlags_psel (t : Timer) : (t.clearFlags).psel = t.psel := rfl

@[simp] theorem Timer.clearFlags_mode (t : Timer) : (t.clearFlags).mode = t.mode := rfl

@[simp] theorem Timer.clearFlags_run (t : Timer) : (t.clearFlags).run = false := rfl

@[simp] theorem Timer.clearFlags_ie (t : Timer) : (t.clearFlags).ie = false := rfl

@[simp] theorem Timer.clearFlags_pending (t : Timer) : (t.clearFlags).pending = false := rfl

@[simp] theorem Timer.clearFlags_pdiv (t : Timer) : (t.clearFlags).pdiv = t.pdiv := rfl

@[simp] theorem Timer.clearFlags_cb (t : Timer) : (t.clearFlags).cb = t.cb := rfl

@[simp] theorem Timer.clearFlags_ticks (t : Timer) : (t.clearFlags).ticks = t.ticks := rfl

@[simp] theorem Timer.clearFlags_waiting (t : Timer) : (t.clearFlags).waiting = t.waiting := rfl

@[simp] theorem Timer.clearFlags_wtarget (t : Timer) : (t.clearFlags).wtarget = t.wtarget := rfl

@[simp] theorem Timer.arm_count (t : Timer) (a b : Count) (ps : Psel) (m : TimerMode) : (t.arm a b ps m).count = a := rfl

@[simp] theorem Timer.arm_compare (t : Timer) (a b : Count) (ps : Psel) (m : TimerMode) : (t.arm a b ps m).compare = b := rfl

@[simp] theorem Timer.arm_psel (t : Timer) (a b : Count) (ps : Psel) (m : TimerMode) : (t.arm a b ps m).psel = ps := rfl

@[simp] theorem Timer.arm_mode (t : Timer) (a b : Count) (ps : Psel) (m : TimerMode) : (t.arm a b ps m).mode = m := rfl

@[simp] theorem Timer.arm_run (t : Timer) (a b : Count) (ps : Psel) (m : TimerMode) : (t.arm a b ps m).run = true := rfl

@[simp] theorem Timer.arm_ie (t : Timer) (a b : Count) (ps : Psel) (m : TimerMode) : (t.arm a b ps m).ie = true := rfl

@[simp] theorem Timer.arm_pending (t : Timer) (a b : Count) (ps : Psel) (m : TimerMode) : (t.arm a b ps m).pending = false := rfl

@[simp] theorem Timer.arm_pdiv (t : Timer) (a b : Count) (ps : Psel) (m : TimerMode) : (t.arm a b ps m).pdiv = 0 := rfl

@[simp] theorem Timer.arm_cb (t : Timer) (a b : Count) (ps : Psel) (m : TimerMode) : (t.arm a b ps m).cb = t.cb := rfl

@[simp] theorem Timer.arm_ticks (t : Timer) (a b : Count) (ps : Psel) (m : TimerMode) : (t.arm a b ps m).ticks = t.ticks := rfl

@[simp] theorem Timer.arm_waiting (t : Timer) (a b : Count) (ps : Psel) (m : TimerMode) : (t.arm a b ps m).waiting = t.waiting := rfl

@[simp] theorem Timer.arm_wtarget (t : Timer) (a b : Count) (ps : Psel) (m : TimerMode) : (t.arm a b ps m).wtarget = t.wtarget := rfl

@[simp] theorem Timer.waitComplete_count (t : Timer) : (t.waitComplete).count = t.count := rfl

@[simp] theorem Timer.waitComplete_compare (t : Timer) : (t.waitComplete).compare = t.compare := rfl

@[simp] theorem Timer.waitComplete_psel (t : Timer) : (t.waitComplete).psel = t.psel := rfl

@[simp] theorem Timer.waitComplete_mode (t : Timer) : (t.waitComplete).mode = t.mode := rfl

@[simp] theorem Timer.waitComplete_run (t : Timer) : (t.waitComplete).run = false := rfl

@[simp] theorem Timer.waitComplete_ie (t : Timer) : (t.waitComplete).ie = false := rfl

@[simp] theorem Timer.waitComplete_pending (t : Timer) : (t.waitComplete).pending = false := rfl

@[simp] theorem Timer.waitComplete_pdiv (t : Timer) : (t.waitComplete).pdiv = t.pdiv := rfl

@[simp] theorem Timer.waitComplete_cb (t : Timer) : (t.waitComplete).cb = t.cb := rfl

@[simp] theorem Timer.waitComplete_ticks (t : Timer) : (t.waitComplete).ticks = 0 := rfl

@[simp] theorem Timer.waitComplete_waiting (t : Timer) : (t.waitComplete).waiting = false := rfl

@[simp] theorem Timer.waitComplete_wtarget (t : Timer) : (t.waitComplete).wtarget = t.wtarget := rfl

/-! ## Text buffers and blocks -/

@[simp] theorem Text.clear_len (t : Text) : t.clear.len = 0 := rfl

@[simp] theorem Text.clear_bytes (t : Text) : t.clear.bytes = t.bytes := rfl

@[simp] theorem Text.terminate_len (t : Text) : t.terminate.len = t.len := rfl

@[simp] theorem Text.terminate_bytes (t : Text) : t.terminate.bytes = t.bytes.setIfInBounds t.len.toNat 0 := rfl

@[simp] theorem Text.setByte_len (t : Text) (i : Nat) (b : Byte) : (t.setByte i b).len = t.len := rfl

@[simp] theorem Text.setByte_bytes (t : Text) (i : Nat) (b : Byte) : (t.setByte i b).bytes = t.bytes.setIfInBounds i b := rfl

@[simp] theorem Block.text_pbuf (b : Block) : b.text .pbuf = b.pbuf := rfl

@[simp] theorem Block.text_xbuf (b : Block) : b.text .xbuf = b.xbuf := rfl

@[simp] theorem Block.setText_pbuf (b : Block) (t : Text) : b.setText .pbuf t = { b with pbuf := t } := rfl

@[simp] theorem Block.setText_xbuf (b : Block) (t : Text) : b.setText .xbuf t = { b with xbuf := t } := rfl

end Sys2Proof.Machine
end

