-- ==== Sys2Proof/Laws/Ops.lean ====
section
/-! SUPPORT. What each shared operation can do, said once: if it answers a next state, then one of these. -/

namespace Sys2Proof.Machine

/-! ## Small facts -/

theorem divisor_legal {ps : Psel} {p : Nat} (h : divisor ps = some p) : 1 ≤ ps.toNat ∧ ps.toNat ≤ 5 := by
  unfold divisor at h
  split at h <;> first | omega | cases h

theorem divisor_pos {ps : Psel} {p : Nat} (h : divisor ps = some p) : 1 ≤ p ∧ p ≤ 1024 := by
  unfold divisor at h
  split at h <;> cases h <;> omega

/-- The machine's own test agrees with the legal codes of `WellFormed`. -/
theorem divisor_isSome (ps : Psel) : (divisor ps).isSome = pselLegal ps := by revert ps; decide

theorem Block.ready_iff (b : Block) : b.ready = true ↔ b.timer.waiting = false ∧ b.act = .idle := by
  simp [Block.ready]

theorem Text.append_eq_some {t t' : Text} {b : Byte} (h : t.append b = some t') :
    t.len.toNat < 9 ∧ t' = { bytes := t.bytes.setIfInBounds t.len.toNat b, len := t.len + 1 } := by
  unfold Text.append at h
  split at h
  · cases h
  · cases h
    exact ⟨by omega, rfl⟩

theorem Text.append_len {t t' : Text} {b : Byte} (h : t.append b = some t') : t'.len.toNat = t.len.toNat + 1 := by
  obtain ⟨h9, rfl⟩ := Text.append_eq_some h
  have : BitVec.toNat (1 : BitVec 4) = 1 := rfl
  show (t.len + 1).toNat = _
  rw [BitVec.toNat_add, this]
  omega

/-! ## Host operations -/

/-- All that `configure` can do (rule R131). -/
theorem opConfigure_next {r a b ps m s t} (h : opConfigure r a b ps m s = .next t) :
    t = s ∨ ((s.block r).ready = true ∧ (∃ p, divisor ps = some p)
      ∧ t = s.setBlock r { s.block r with timer := (s.block r).timer.arm a b ps m }) := by
  unfold opConfigure at h
  split at h
  · split at h
    · cases h
    · cases h
      exact .inr ⟨by assumption, ⟨_, by assumption⟩, rfl⟩
  · cases h
    exact .inl rfl

/-- All that `register_callback` can do (rule R132). -/
theorem opRegisterCallback_next {r fn s t} (h : opRegisterCallback r fn s = .next t) :
    t = s ∨ ((s.block r).ready = true ∧ t = s.setBlock r { s.block r with timer := { (s.block r).timer with cb := .tickInc } }) := by
  unfold opRegisterCallback at h
  split at h
  · split at h <;> cases h
    · exact .inl rfl
    · exact .inr ⟨by assumption, rfl⟩
  · cases h
    exact .inl rfl

/-- All that `disable` can do (rule R133). -/
theorem opDisable_next {r s t} (h : opDisable r s = .next t) :
    t = s ∨ ((s.block r).ready = true ∧ t = s.setBlock r { s.block r with timer := (s.block r).timer.clearFlags }) := by
  unfold opDisable at h
  split at h <;> cases h
  · exact .inr ⟨by assumption, rfl⟩
  · exact .inl rfl

/-- All that `wait_ticks` can do: nothing while it is not its turn, its begin step, or its return (rules R134, R192). -/
theorem opWaitTicks_next {r n a b ps m s t} (h : opWaitTicks r n a b ps m s = .next t) :
    t = s
    ∨ ((s.block r).timer.waiting = false ∧ (s.block r).act = .inWait ∧ t = s.setBlock r { s.block r with act := .idle })
    ∨ ((s.block r).ready = true ∧ (s.block r).timer.ticks = 0 ∧ (∃ p, divisor ps = some p)
      ∧ t = s.setBlock r { s.block r with
          timer := (s.block r).timer.beginWait n a b ps m, act := if n = 0 then .idle else .inWait }) := by
  unfold opWaitTicks at h
  split at h
  · cases h
    exact .inl rfl
  · rename_i hw
    have hw : (s.block r).timer.waiting = false := by simpa using hw
    split at h
    · rename_i ha
      split at h
      · cases h
      · rename_i ht
        split at h
        · cases h
        · cases h
          refine .inr (.inr ⟨(Block.ready_iff _).2 ⟨hw, ha⟩, by simpa using ht, ⟨_, by assumption⟩, ?_⟩)
          simp
    · rename_i ha
      cases h
      exact .inr (.inl ⟨hw, ha, rfl⟩)
    all_goals
      cases h
      exact .inl rfl

/-- All that `send_byte` can do (rule R171). -/
theorem opSendByte_next {r b s t} (h : opSendByte r b s = .next t) :
    t = s ∨ ((s.block r).ready = true
      ∧ t = s.setBlock r.peer { s.block r.peer with rxq := (s.block r.peer).rxq ++ [b] }) := by
  unfold opSendByte at h
  split at h <;> cases h
  · exact .inr ⟨by assumption, rfl⟩
  · exact .inl rfl

/-- All that `receive_byte` can do (rule R172). -/
theorem opReceiveByte_next {r s t} (h : opReceiveByte r s = .next t) :
    t = s
    ∨ ((s.block r).timer.waiting = false ∧ (s.block r).rxq = [] ∧ t = s.setBlock r { s.block r with act := .inReceiveByte })
    ∨ ((s.block r).timer.waiting = false ∧ ∃ b rest, (s.block r).rxq = b :: rest
      ∧ t = s.setBlock r { s.block r with rxq := rest, res := b, act := .idle }) := by
  simp only [opReceiveByte] at h
  split at h
  · cases h
    exact .inl rfl
  · rename_i hw
    have hw : (s.block r).timer.waiting = false := by simpa using hw
    split at h
    · split at h <;> cases h
      · exact .inr (.inl ⟨hw, by assumption, rfl⟩)
      · exact .inr (.inr ⟨hw, _, _, by assumption, rfl⟩)
    · cases h
      exact .inl rfl

/-- All that a byte step of `send_text` can do (rule R173). -/
theorem opSendText_next {r buf s t} (h : opSendText r buf s = .next t) :
    t = s
    ∨ ((s.block r).timer.waiting = false ∧ ∃ a c,
        t = (s.setBlock r { s.block r with act := a }).setBlock r.peer
          { s.block r.peer with rxq := (s.block r.peer).rxq ++ [c] }) := by
  simp only [opSendText] at h
  split at h
  · cases h
    exact .inl rfl
  · rename_i hw
    have hw : (s.block r).timer.waiting = false := by simpa using hw
    split at h
    · cases h
      exact .inl rfl
    · split at h <;> cases h <;> exact .inr ⟨hw, _, _, by simp; rfl⟩

/-- All that a byte step of a begun `receive_text` can do (rule R174). -/
theorem receiveTextByte_next {r s t} (h : receiveTextByte r s = .next t) :
    (t = s ∧ (s.block r).rxq = [])
    ∨ (∃ rest, (s.block r).rxq = 0#8 :: rest
      ∧ t = s.setBlock r { s.block r with rxq := rest, pbuf := (s.block r).pbuf.terminate, act := .idle })
    ∨ (∃ b rest p, b ≠ 0#8 ∧ (s.block r).rxq = b :: rest ∧ (s.block r).pbuf.append b = some p
      ∧ t = s.setBlock r { s.block r with rxq := rest, pbuf := p }) := by
  simp only [receiveTextByte] at h
  split at h
  · cases h
    exact .inl ⟨rfl, by assumption⟩
  · split at h
    · rename_i hb
      subst hb
      cases h
      exact .inr (.inl ⟨_, by assumption, rfl⟩)
    · split at h
      · cases h
      · cases h
        exact .inr (.inr ⟨_, _, _, by assumption, by assumption, by assumption, rfl⟩)

/-- All that `receive_text` can do: nothing, or a byte step, after `PLEN <- 0` where it begins (rule R174). -/
theorem opReceiveText_next {r s t} (h : opReceiveText r s = .next t) :
    t = s
    ∨ ((s.block r).timer.waiting = false ∧ (s.block r).act = .inReceiveText ∧ receiveTextByte r s = .next t)
    ∨ ((s.block r).ready = true
      ∧ receiveTextByte r (s.setBlock r { s.block r with pbuf := (s.block r).pbuf.clear, act := .inReceiveText }) = .next t) := by
  simp only [opReceiveText] at h
  split at h
  · cases h
    exact .inl rfl
  · rename_i hw
    have hw : (s.block r).timer.waiting = false := by simpa using hw
    split at h
    · rename_i ha
      exact .inr (.inr ⟨(Block.ready_iff _).2 ⟨hw, ha⟩, h⟩)
    · rename_i ha
      exact .inr (.inl ⟨hw, ha, h⟩)
    all_goals
      cases h
      exact .inl rfl

/-! ## Around an operation -/

/-- A step that issues an operation (rule R192). -/
theorem afterOp_next {r adv o t} (h : afterOp r adv o = .next t) :
    ∃ u, o = .next u ∧ t = if (u.block r).act = .idle then adv u else u := by
  cases o with
  | next u =>
    refine ⟨u, rfl, ?_⟩
    simp only [afterOp] at h
    split at h <;> cases h <;> simp [*]
  | fault e => cases h
  | refused e => cases h

/-- A transition of the word on the port (rule R103). -/
theorem finishPort_next {r o t} (h : finishPort r o = .next t) : ∃ u, o = .next u ∧ t = u.setBlock r (u.block r).finishPort := by
  cases o with
  | next u =>
    cases h
    exact ⟨u, rfl, rfl⟩
  | fault e => cases h
  | refused e => cases h

@[simp] theorem Block.finishPort_timer (b : Block) : b.finishPort.timer = b.timer := by unfold Block.finishPort; split <;> rfl

@[simp] theorem Block.finishPort_rxq (b : Block) : b.finishPort.rxq = b.rxq := by unfold Block.finishPort; split <;> rfl

@[simp] theorem Block.finishPort_pbuf (b : Block) : b.finishPort.pbuf = b.pbuf := by unfold Block.finishPort; split <;> rfl

@[simp] theorem Block.finishPort_xbuf (b : Block) : b.finishPort.xbuf = b.xbuf := by unfold Block.finishPort; split <;> rfl

@[simp] theorem Block.finishPort_res (b : Block) : b.finishPort.res = b.res := by unfold Block.finishPort; split <;> rfl

@[simp] theorem Block.finishPort_act (b : Block) : b.finishPort.act = b.act := by unfold Block.finishPort; split <;> rfl

@[simp] theorem Block.finishPort_fore (b : Block) : b.finishPort.fore = b.fore := by unfold Block.finishPort; split <;> rfl

/-! ## All a host operation can do -/

/-- What any host operation of a unit leaves and keeps: the shells, `STORE`, the collaborators and the schedule as they were; the
peer but for its queue; the unit's foreground, port and `XBUF`. -/
structure HostEffect (r : Role) (s t : State) : Prop where
  params : t.params = s.params
  hmiShell : t.hmiShell = s.hmiShell
  ctrlShell : t.ctrlShell = s.ctrlShell
  store : t.store = s.store
  key : t.key = s.key
  disp : t.disp = s.disp
  cur : t.cur = s.cur
  agenda : t.agenda = s.agenda
  turns : t.turns = s.turns
  draws : t.draws = s.draws
  peer : ∃ q, t.block r.peer = { s.block r.peer with rxq := q }
  fore : (t.block r).fore = (s.block r).fore
  port : (t.block r).port = (s.block r).port
  opDone : (t.block r).opDone = (s.block r).opDone
  xbuf : (t.block r).xbuf = (s.block r).xbuf
  cb : (s.block r).timer.cb = .tickInc → (t.block r).timer.cb = .tickInc

theorem HostEffect.refl (r : Role) (s : State) : HostEffect r s s where
  params := rfl
  hmiShell := rfl
  ctrlShell := rfl
  store := rfl
  key := rfl
  disp := rfl
  cur := rfl
  agenda := rfl
  turns := rfl
  draws := rfl
  peer := ⟨_, rfl⟩
  fore := rfl
  port := rfl
  opDone := rfl
  xbuf := rfl
  cb := id

/-- The one form every host operation's next state has. -/
theorem HostEffect.of_setBlock (r : Role) (s : State) {b : Block} (q : List Byte) (hf : b.fore = (s.block r).fore)
    (hp : b.port = (s.block r).port) (hd : b.opDone = (s.block r).opDone) (hx : b.xbuf = (s.block r).xbuf)
    (hc : (s.block r).timer.cb = .tickInc → b.timer.cb = .tickInc) :
    HostEffect r s ((s.setBlock r b).setBlock r.peer { s.block r.peer with rxq := q }) where
  params := by simp
  hmiShell := by simp
  ctrlShell := by simp
  store := by simp
  key := by simp
  disp := by simp
  cur := by simp
  agenda := by simp
  turns := by simp
  draws := by simp
  peer := ⟨q, by simp⟩
  fore := by simpa using hf
  port := by simpa using hp
  opDone := by simpa using hd
  xbuf := by simpa using hx
  cb := by simpa using hc

theorem HostEffect.of_setBlock_own (r : Role) (s : State) {b : Block} (hf : b.fore = (s.block r).fore)
    (hp : b.port = (s.block r).port) (hd : b.opDone = (s.block r).opDone) (hx : b.xbuf = (s.block r).xbuf)
    (hc : (s.block r).timer.cb = .tickInc → b.timer.cb = .tickInc) : HostEffect r s (s.setBlock r b) := by
  have h := HostEffect.of_setBlock r s (b := b) (s.block r.peer).rxq hf hp hd hx hc
  have e : (s.setBlock r b).setBlock r.peer { s.block r.peer with rxq := (s.block r.peer).rxq } = s.setBlock r b := by
    cases r <;> rfl
  rwa [e] at h

@[simp] theorem Timer.beginWait_cb (t : Timer) (n : Tick) (a b : Count) (ps : Psel) (m : TimerMode) :
    (t.beginWait n a b ps m).cb = t.cb := by unfold Timer.beginWait; split <;> rfl

theorem opConfigure_effect {r a b ps m s t} (h : opConfigure r a b ps m s = .next t) : HostEffect r s t := by
  rcases opConfigure_next h with rfl | ⟨-, -, rfl⟩
  · exact .refl _ _
  · exact .of_setBlock_own _ _ rfl rfl rfl rfl (by simp)

theorem opRegisterCallback_effect {r fn s t} (h : opRegisterCallback r fn s = .next t) : HostEffect r s t := by
  rcases opRegisterCallback_next h with rfl | ⟨-, rfl⟩
  · exact .refl _ _
  · exact .of_setBlock_own _ _ rfl rfl rfl rfl (by simp)

theorem opDisable_effect {r s t} (h : opDisable r s = .next t) : HostEffect r s t := by
  rcases opDisable_next h with rfl | ⟨-, rfl⟩
  · exact .refl _ _
  · exact .of_setBlock_own _ _ rfl rfl rfl rfl (by simp)

theorem opWaitTicks_effect {r n a b ps m s t} (h : opWaitTicks r n a b ps m s = .next t) : HostEffect r s t := by
  rcases opWaitTicks_next h with rfl | ⟨-, -, rfl⟩ | ⟨-, -, -, rfl⟩
  · exact .refl _ _
  · exact .of_setBlock_own _ _ rfl rfl rfl rfl (by simp)
  · exact .of_setBlock_own _ _ rfl rfl rfl rfl (by simp)

theorem opDelay1s_effect {r s t} (h : opDelay1s r s = .next t) : HostEffect r s t := opWaitTicks_effect (show opWaitTicks .. = _ from h)

theorem opDelay15s_effect {r s t} (h : opDelay15s r s = .next t) : HostEffect r s t := opWaitTicks_effect (show opWaitTicks .. = _ from h)

theorem opSendByte_effect {r b s t} (h : opSendByte r b s = .next t) : HostEffect r s t := by
  rcases opSendByte_next h with rfl | ⟨-, rfl⟩
  · exact .refl _ _
  · have := HostEffect.of_setBlock r s (b := s.block r) ((s.block r.peer).rxq ++ [b]) rfl rfl rfl rfl id
    simpa using this

theorem opReceiveByte_effect {r s t} (h : opReceiveByte r s = .next t) : HostEffect r s t := by
  rcases opReceiveByte_next h with rfl | ⟨-, -, rfl⟩ | ⟨-, _, _, -, rfl⟩
  · exact .refl _ _
  · exact .of_setBlock_own _ _ rfl rfl rfl rfl id
  · exact .of_setBlock_own _ _ rfl rfl rfl rfl id

theorem opSendText_effect {r buf s t} (h : opSendText r buf s = .next t) : HostEffect r s t := by
  rcases opSendText_next h with rfl | ⟨-, _, _, rfl⟩
  · exact .refl _ _
  · exact .of_setBlock _ _ _ rfl rfl rfl rfl id

theorem receiveTextByte_effect {r s t} (h : receiveTextByte r s = .next t) : HostEffect r s t := by
  rcases receiveTextByte_next h with ⟨rfl, -⟩ | ⟨_, -, rfl⟩ | ⟨_, _, _, -, -, -, rfl⟩
  · exact .refl _ _
  · exact .of_setBlock_own _ _ rfl rfl rfl rfl id
  · exact .of_setBlock_own _ _ rfl rfl rfl rfl id

theorem opReceiveText_effect {r s t} (h : opReceiveText r s = .next t) : HostEffect r s t := by
  rcases opReceiveText_next h with rfl | ⟨-, -, h⟩ | ⟨-, h⟩
  · exact .refl _ _
  · exact receiveTextByte_effect h
  · rcases receiveTextByte_next h with ⟨rfl, -⟩ | ⟨_, -, rfl⟩ | ⟨_, _, _, -, -, -, rfl⟩
    · exact .of_setBlock_own _ _ rfl rfl rfl rfl id
    · simp only [State.setBlock_setBlock, State.block_setBlock]
      exact .of_setBlock_own _ _ rfl rfl rfl rfl id
    · simp only [State.setBlock_setBlock, State.block_setBlock]
      exact .of_setBlock_own _ _ rfl rfl rfl rfl id

end Sys2Proof.Machine
end

