-- ==== Sys2Proof/Laws/Timer.lean ====
section
/-! SUPPORT. The timer's transitions: what each writes, and that each keeps the invariants of rule R33. -/

namespace Sys2Proof.Machine

/-! ## What the transitions write -/

theorem Timer.countEvent_eq (t : Timer) :
    t.countEvent = if t.fires then { t with count := 0, pending := true } else { t with count := t.count + 1 } := rfl

/-- A clock event is no event, a count of the divider, or a count event (rule R135). -/
theorem Timer.clockEvent_cases (t : Timer) :
    t.clockEvent = t
    ∨ (t.run = true ∧ ∃ p, divisor t.psel = some p ∧ t.pdiv.toNat + 1 = p ∧ t.clockEvent = { t with pdiv := 0 }.countEvent)
    ∨ (t.run = true ∧ ∃ p, divisor t.psel = some p ∧ t.pdiv.toNat + 1 ≠ p ∧ t.clockEvent = { t with pdiv := t.pdiv + 1 }) := by
  unfold Timer.clockEvent
  split
  · split
    · exact .inl rfl
    · split
      · exact .inr (.inl ⟨by assumption, _, by assumption, by assumption, rfl⟩)
      · exact .inr (.inr ⟨by assumption, _, by assumption, by assumption, rfl⟩)
  · exact .inl rfl

/-- A turn of the handler is no event, a dropped firing, an increment, or the increment that completes the wait (rules R266,
R267). -/
theorem Timer.takeInterrupt_cases (t : Timer) :
    (t.irqLine = false ∧ t.takeInterrupt = t)
    ∨ (t.irqLine = true ∧ t.cb = .none ∧ t.takeInterrupt = { t with pending := false })
    ∨ (t.irqLine = true ∧ t.cb = .tickInc ∧ ¬(t.waiting = true ∧ t.ticks + 1 = t.wtarget)
      ∧ t.takeInterrupt = { t with pending := false, ticks := t.ticks + 1 })
    ∨ (t.irqLine = true ∧ t.cb = .tickInc ∧ t.waiting = true ∧ t.ticks + 1 = t.wtarget
      ∧ t.takeInterrupt = { t with ticks := 0, run := false, ie := false, pending := false, waiting := false }) := by
  unfold Timer.takeInterrupt Timer.handler Timer.tickInc
  by_cases hq : t.irqLine
  · cases hc : t.cb
    · exact .inr (.inl ⟨hq, rfl, by simp [hq]⟩)
    · by_cases hw : t.waiting = true ∧ t.ticks + 1 = t.wtarget
      · refine .inr (.inr (.inr ⟨hq, rfl, hw.1, hw.2, ?_⟩))
        have ht : t.ticks + 1#8 = t.wtarget := hw.2
        simp [hq, hw.1, ht, Timer.waitComplete, Timer.clearFlags]
      · refine .inr (.inr (.inl ⟨hq, rfl, hw, ?_⟩))
        simp [hq]
        intro h1 h2
        exact absurd ⟨h1, h2⟩ hw
  · exact .inl ⟨by simpa using hq, by simp [hq]⟩

@[simp] theorem Timer.countEvent_cb (t : Timer) : t.countEvent.cb = t.cb := by unfold Timer.countEvent; split <;> rfl

@[simp] theorem Timer.clockEvent_cb (t : Timer) : t.clockEvent.cb = t.cb := by
  rcases t.clockEvent_cases with h | ⟨-, _, -, -, h⟩ | ⟨-, _, -, -, h⟩ <;> simp [h]

@[simp] theorem Timer.countEvent_waiting (t : Timer) : t.countEvent.waiting = t.waiting := by
  unfold Timer.countEvent; split <;> rfl

@[simp] theorem Timer.clockEvent_waiting (t : Timer) : t.clockEvent.waiting = t.waiting := by
  rcases t.clockEvent_cases with h | ⟨-, _, -, -, h⟩ | ⟨-, _, -, -, h⟩ <;> simp [h]

@[simp] theorem Timer.countEvent_ticks (t : Timer) : t.countEvent.ticks = t.ticks := by unfold Timer.countEvent; split <;> rfl

@[simp] theorem Timer.clockEvent_ticks (t : Timer) : t.clockEvent.ticks = t.ticks := by
  rcases t.clockEvent_cases with h | ⟨-, _, -, -, h⟩ | ⟨-, _, -, -, h⟩ <;> simp [h]

@[simp] theorem Timer.takeInterrupt_cb (t : Timer) : t.takeInterrupt.cb = t.cb := by
  rcases t.takeInterrupt_cases with ⟨-, h⟩ | ⟨-, -, h⟩ | ⟨-, -, -, h⟩ | ⟨-, -, -, -, h⟩ <;> simp [h]

/-! ## The invariants of rule R33 -/

theorem Timer.reset_inv : Timer.reset.Inv := by
  constructor <;> simp [Timer.reset]

theorem Timer.clearFlags_inv {t : Timer} (hw : t.waiting = false) : t.clearFlags.Inv := by
  constructor <;> simp [Timer.clearFlags, hw]

theorem Timer.arm_inv {t : Timer} (hw : t.waiting = false) (a b : Count) {ps : Psel} (m : TimerMode) {p : Nat}
    (hp : divisor ps = some p) : (t.arm a b ps m).Inv where
  runIe := rfl
  waitRuns h := absurd (show t.waiting = true from h) (by simp [hw])
  pendingRuns _ := rfl
  runPsel _ := divisor_legal hp
  runPdiv _ q hq := by
    have := divisor_pos (ps := ps) hq
    show 0 < q
    omega

theorem Timer.beginWait_inv {t : Timer} (hw : t.waiting = false) (ht : t.ticks = 0) (n : Tick) (a b : Count) {ps : Psel}
    (m : TimerMode) {p : Nat} (hp : divisor ps = some p) : (t.beginWait n a b ps m).Inv := by
  have ha := Timer.arm_inv hw a b m hp
  unfold Timer.beginWait
  split
  · constructor <;> simp [hw]
  · rename_i hn
    constructor
    · rfl
    · intro _
      refine ⟨rfl, ?_⟩
      show t.ticks < n
      rw [ht]
      exact (BitVec.pos_iff_ne_zero n).2 hn
    · intro h; rfl
    · exact ha.runPsel
    · exact ha.runPdiv

theorem Timer.countEvent_inv {t : Timer} (h : t.Inv) (hr : t.run = true) : t.countEvent.Inv := by
  unfold Timer.countEvent
  split
  · exact ⟨h.runIe, h.waitRuns, fun _ => hr, h.runPsel, h.runPdiv⟩
  · exact ⟨h.runIe, h.waitRuns, h.pendingRuns, h.runPsel, h.runPdiv⟩

theorem Timer.clockEvent_inv {t : Timer} (h : t.Inv) : t.clockEvent.Inv := by
  rcases t.clockEvent_cases with e | ⟨hr, p, hp, -, e⟩ | ⟨hr, p, hp, hne, e⟩ <;> rw [e]
  · exact h
  · refine Timer.countEvent_inv ⟨h.runIe, h.waitRuns, h.pendingRuns, h.runPsel, fun _ q hq => ?_⟩ hr
    have := divisor_pos (ps := t.psel) hq
    show 0 < q
    omega
  · refine ⟨h.runIe, h.waitRuns, h.pendingRuns, h.runPsel, fun _ q hq => ?_⟩
    have hq : divisor t.psel = some q := hq
    have hlt := h.runPdiv hr q hq
    have hp' := divisor_pos hq
    rw [hp] at hq
    cases hq
    have h1 : BitVec.toNat (1 : BitVec 10) = 1 := rfl
    show (t.pdiv + 1).toNat < p
    rw [BitVec.toNat_add, h1]
    omega

theorem Timer.takeInterrupt_inv {t : Timer} (h : t.Inv) : t.takeInterrupt.Inv := by
  rcases t.takeInterrupt_cases with ⟨-, e⟩ | ⟨-, -, e⟩ | ⟨-, -, hn, e⟩ | ⟨-, -, -, -, e⟩ <;> rw [e]
  · exact h
  · exact ⟨h.runIe, h.waitRuns, fun h' => Bool.noConfusion h', h.runPsel, h.runPdiv⟩
  · refine ⟨h.runIe, fun hw => ?_, fun h' => Bool.noConfusion h', h.runPsel, h.runPdiv⟩
    have hw : t.waiting = true := hw
    obtain ⟨hr, hlt⟩ := h.waitRuns hw
    refine ⟨hr, ?_⟩
    show t.ticks + 1 < t.wtarget
    have hne : t.ticks + 1 ≠ t.wtarget := fun he => hn ⟨hw, he⟩
    bv_omega
  · constructor <;> simp

end Sys2Proof.Machine
end

