-- ==== Sys2Proof/Laws/Invariants.lean ====
section
/-! SUPPORT. Each host operation keeps the invariants of the unit that issues it, and leaves the other unit's instance but for its
queue. -/

namespace Sys2Proof.Machine

theorem Block.Inv.of_same {b c : Block} (h : b.Inv) (ht : c.timer = b.timer) (hp : c.pbuf.len.toNat ≤ 9) (hx : c.xbuf = b.xbuf)
    (ha : b.timer.waiting = true → c.act = .inWait) (hf : c.fore = b.fore) (hq : c.port = b.port) : c.Inv where
  timer := ht ▸ h.timer
  plen := hp
  xlen := hx ▸ h.xlen
  waitAct hw := ha (ht ▸ hw)
  shellPort hs := by rw [hq]; exact h.shellPort (hf ▸ hs)

theorem Block.Inv.with_timer {b : Block} (h : b.Inv) {t : Timer} (ht : t.Inv) (a : Activity)
    (ha : t.waiting = true → a = .inWait) : Block.Inv { b with timer := t, act := a } where
  timer := ht
  plen := h.plen
  xlen := h.xlen
  waitAct := ha
  shellPort := h.shellPort

theorem opConfigure_inv {r a b ps m s t} (h : opConfigure r a b ps m s = .next t) (hi : (s.block r).Inv) : (t.block r).Inv := by
  rcases opConfigure_next h with rfl | ⟨hr, ⟨p, hp⟩, rfl⟩
  · exact hi
  · rw [State.block_setBlock]
    have hw := ((Block.ready_iff _).1 hr).1
    exact hi.with_timer (Timer.arm_inv hw a b m hp) _ (fun h' => by simp [hw] at h')

theorem opRegisterCallback_inv {r fn s t} (h : opRegisterCallback r fn s = .next t) (hi : (s.block r).Inv) : (t.block r).Inv := by
  rcases opRegisterCallback_next h with rfl | ⟨hr, rfl⟩
  · exact hi
  · rw [State.block_setBlock]
    exact hi.with_timer (t := { (s.block r).timer with cb := .tickInc })
      ⟨hi.timer.runIe, hi.timer.waitRuns, hi.timer.pendingRuns, hi.timer.runPsel, hi.timer.runPdiv⟩ _ hi.waitAct

theorem opDisable_inv {r s t} (h : opDisable r s = .next t) (hi : (s.block r).Inv) : (t.block r).Inv := by
  rcases opDisable_next h with rfl | ⟨hr, rfl⟩
  · exact hi
  · rw [State.block_setBlock]
    have hw := ((Block.ready_iff _).1 hr).1
    exact hi.with_timer (Timer.clearFlags_inv hw) _ (fun h' => by simp [hw] at h')

theorem opWaitTicks_inv {r n a b ps m s t} (h : opWaitTicks r n a b ps m s = .next t) (hi : (s.block r).Inv) : (t.block r).Inv := by
  rcases opWaitTicks_next h with rfl | ⟨hw, -, rfl⟩ | ⟨hr, ht, ⟨p, hp⟩, rfl⟩
  · exact hi
  · rw [State.block_setBlock]
    exact hi.with_timer hi.timer _ (fun h' => by simp [hw] at h')
  · rw [State.block_setBlock]
    have hw := ((Block.ready_iff _).1 hr).1
    refine hi.with_timer (Timer.beginWait_inv hw ht n a b m hp) _ (fun h' => ?_)
    unfold Timer.beginWait at h'
    split at h'
    · simp [hw] at h'
    · rename_i hn; exact if_neg hn

theorem opSendByte_inv {r b s t} (h : opSendByte r b s = .next t) (hi : (s.block r).Inv) : (t.block r).Inv := by
  rcases opSendByte_next h with rfl | ⟨hr, rfl⟩
  · exact hi
  · simpa using hi

theorem opReceiveByte_inv {r s t} (h : opReceiveByte r s = .next t) (hi : (s.block r).Inv) : (t.block r).Inv := by
  rcases opReceiveByte_next h with rfl | ⟨hw, -, rfl⟩ | ⟨hw, _, _, -, rfl⟩
  · exact hi
  all_goals
    rw [State.block_setBlock]
    exact hi.of_same rfl hi.plen rfl (fun h' => by simp [hw] at h') rfl rfl

theorem opSendText_inv {r buf s t} (h : opSendText r buf s = .next t) (hi : (s.block r).Inv) : (t.block r).Inv := by
  rcases opSendText_next h with rfl | ⟨hw, _, _, rfl⟩
  · exact hi
  · rw [State.block_setBlock_of_peer, State.block_setBlock]
    exact hi.of_same rfl hi.plen rfl (fun h' => by simp [hw] at h') rfl rfl

theorem receiveTextByte_inv {r s t} (h : receiveTextByte r s = .next t) (hw : (s.block r).timer.waiting = false) (hi : (s.block r).Inv) :
    (t.block r).Inv := by
  rcases receiveTextByte_next h with ⟨rfl, -⟩ | ⟨_, -, rfl⟩ | ⟨_, _, p, -, -, hp, rfl⟩
  · exact hi
  · rw [State.block_setBlock]
    exact hi.of_same rfl hi.plen rfl (fun h' => by simp [hw] at h') rfl rfl
  · rw [State.block_setBlock]
    have h1 := Text.append_len hp
    have h2 := (Text.append_eq_some hp).1
    exact hi.of_same rfl (by show p.len.toNat ≤ 9; omega) rfl (fun h' => by simp [hw] at h') rfl rfl

theorem opReceiveText_inv {r s t} (h : opReceiveText r s = .next t) (hi : (s.block r).Inv) : (t.block r).Inv := by
  rcases opReceiveText_next h with rfl | ⟨hw, -, h⟩ | ⟨hr, h⟩
  · exact hi
  · exact receiveTextByte_inv h hw hi
  · have hw := ((Block.ready_iff _).1 hr).1
    refine receiveTextByte_inv h (by rw [State.block_setBlock]; exact hw) ?_
    rw [State.block_setBlock]
    exact hi.of_same rfl (by simp) rfl (fun h' => by simp [hw] at h') rfl rfl

theorem HostEffect.inv_peer {r s t} (h : HostEffect r s t) (hi : (s.block r.peer).Inv) : (t.block r.peer).Inv := by
  obtain ⟨q, e⟩ := h.peer
  rw [e]
  exact hi.of_same rfl hi.plen rfl hi.waitAct rfl rfl

/-- What a host operation of either unit keeps of the control unit's instance. -/
theorem HostEffect.ctrl_block {r s t} (h : HostEffect r s t) : t.ctrl.fore = s.ctrl.fore ∧
    (s.ctrl.timer.cb = .tickInc → t.ctrl.timer.cb = .tickInc) := by
  cases r
  · obtain ⟨q, e⟩ := h.peer
    have e : t.ctrl = { s.ctrl with rxq := q } := e
    simp [e]
  · exact ⟨h.fore, h.cb⟩

/-- What a host operation of either unit keeps of the HMI unit's instance. -/
theorem HostEffect.hmi_block {r s t} (h : HostEffect r s t) : t.hmi.fore = s.hmi.fore ∧
    (s.hmi.timer.cb = .tickInc → t.hmi.timer.cb = .tickInc) := by
  cases r
  · exact ⟨h.fore, h.cb⟩
  · obtain ⟨q, e⟩ := h.peer
    have e : t.hmi = { s.hmi with rxq := q } := e
    simp [e]

/-- A host operation that keeps its unit's invariants keeps the system's, where it leaves `PLEN` alone inside the copy loop. -/
theorem HostEffect.inv {r s t} (h : HostEffect r s t) (hb : (s.block r).Inv → (t.block r).Inv) (hi : s.Inv)
    (hp : s.ctrlShell.st = .setpw → s.ctrlShell.step = 2 → t.ctrl.pbuf.len = s.ctrl.pbuf.len) : t.Inv where
  params := h.params ▸ hi.params
  hmi := by
    cases r
    · exact hb hi.hmi
    · exact h.inv_peer hi.hmi
  ctrl := by
    cases r
    · exact h.inv_peer hi.ctrl
    · exact hb hi.ctrl
  hmiShell := by
    rw [h.hmiShell]
    obtain ⟨h1, h2⟩ := h.hmi_block
    exact { hi.hmiShell with booted := fun hh => ⟨h1.trans (hi.hmiShell.booted hh).1, h2 (hi.hmiShell.booted hh).2⟩ }
  ctrlShell := by
    rw [h.ctrlShell]
    obtain ⟨h1, h2⟩ := h.ctrl_block
    exact { hi.ctrlShell with
      booted := fun hh => ⟨h1.trans (hi.ctrlShell.booted hh).1, h2 (hi.ctrlShell.booted hh).2⟩
      copyIdx := fun a b => by rw [hp a b]; exact hi.ctrlShell.copyIdx a b }
  store := h.store ▸ hi.store
  region := by rw [h.store, h.params]; exact hi.region

end Sys2Proof.Machine
end

