-- ==== Sys2Proof/Laws/PerInstr.lean ====
section
/-! SUPPORT. Per instruction: a legal instruction stands for legal operations, and each of them has a word. -/

namespace Sys2Proof.Laws.LegalWords

/-- What a legal instruction stands for (itself, or a pseudo-instruction's expansion, rule R114) is legal and has a word of its
format (rules R103, R109, R110). -/
def Statement (i : Instr) : Prop :=
  i.wellFormed = true → ∀ j ∈ expand i, j.wellFormed = true ∧ (encodeOne j).isSome = true

/-- An instruction that stands for itself. -/
theorem of_self {i : Instr} (he : expand i = [i]) (hw : i.wellFormed = true → (encodeOne i).isSome = true) : Statement i := by
  intro h j hj
  rw [he, List.mem_singleton] at hj
  exact hj ▸ ⟨h, hw h⟩

theorem configure (a b : Count) (ps : Psel) (m : TimerMode) : Statement (.configure a b ps m) := of_self rfl fun _ => rfl

theorem registerCallback (fn : Byte) : Statement (.registerCallback fn) := of_self rfl fun _ => rfl

theorem disable : Statement .disable := of_self rfl fun _ => rfl

theorem waitTicks (n : Tick) (a b : Count) (ps : Psel) (m : TimerMode) : Statement (.waitTicks n a b ps m) := of_self rfl fun _ => rfl

theorem sendByte (b : Byte) : Statement (.sendByte b) := of_self rfl fun _ => rfl

theorem receiveByte : Statement .receiveByte := of_self rfl fun _ => rfl

theorem sendText (buf : BufSel) : Statement (.sendText buf) := of_self rfl fun _ => rfl

theorem receiveText : Statement .receiveText := of_self rfl fun _ => rfl

theorem cmdSetpw : Statement .cmdSetpw := of_self rfl fun _ => rfl

theorem cmdVerify : Statement .cmdVerify := of_self rfl fun _ => rfl

theorem cmdOpen : Statement .cmdOpen := of_self rfl fun _ => rfl

theorem cmdLock : Statement .cmdLock := of_self rfl fun _ => rfl

theorem cmdIgnored (b : Byte) : Statement (.cmdIgnored b) := of_self rfl fun _ => rfl

theorem rspMatch : Statement .rspMatch := of_self rfl fun _ => rfl

theorem rspNomatch (b : Byte) : Statement (.rspNomatch b) := of_self rfl fun _ => rfl

theorem delay1s : Statement .delay1s := by
  unfold Statement; decide

theorem delay15s : Statement .delay15s := by
  unfold Statement; decide

theorem delay60s : Statement .delay60s := by
  unfold Statement; decide

theorem delay3s : Statement .delay3s := by
  unfold Statement; decide

theorem sendFrame (op : Byte) (buf : Option BufSel) : Statement (.sendFrame op buf) := by
  intro _ j hj
  cases buf <;> simp only [expand, List.mem_cons, List.not_mem_nil, or_false] at hj
  · subst hj
    exact ⟨rfl, rfl⟩
  · rcases hj with rfl | rfl <;> exact ⟨rfl, rfl⟩

theorem reservedOp0 : Statement .reservedOp0 := of_self rfl fun _ => rfl

theorem reservedOp5 : Statement .reservedOp5 := of_self rfl fun _ => rfl

theorem reservedOp6 : Statement .reservedOp6 := of_self rfl fun _ => rfl

theorem reservedOp7 : Statement .reservedOp7 := of_self rfl fun _ => rfl

theorem reservedOpC : Statement .reservedOpC := of_self rfl fun _ => rfl

theorem reservedOpD : Statement .reservedOpD := of_self rfl fun _ => rfl

theorem reservedOpE : Statement .reservedOpE := of_self rfl fun _ => rfl

theorem reservedOpF : Statement .reservedOpF := of_self rfl fun _ => rfl

end Sys2Proof.Laws.LegalWords
end

