-- ==== Sys2Proof/Laws/Schedule.lean ====
section
/-! SUPPORT. What a transition does to the schedule, and weak fairness (rule R10): no place of the arbiter is passed over, so that under a
fair one every agent's turn comes again and again. -/

namespace Sys2Proof.Machine

/-- What decides whose turns are next: the agenda, and the arbiter's place. -/
abbrev State.schedule (s : State) : List Event × Nat := (s.agenda, s.turns)

theorem HostEffect.schedule {r s t} (h : HostEffect r s t) : t.schedule = s.schedule := by
  simp [State.schedule, h.agenda, h.turns]

/-! ## Around an operation -/

theorem afterOp_schedule {r adv o} {s t : State} (h : afterOp r adv o = .next t) (ho : ∀ u, o = .next u → u.schedule = s.schedule)
    (ha : ∀ u, (adv u).schedule = u.schedule) : t.schedule = s.schedule := by
  obtain ⟨u, rfl, rfl⟩ := afterOp_next h
  split
  · exact (ha u).trans (ho u rfl)
  · exact ho u rfl

theorem finishPort_schedule {r o} {s t : State} (h : finishPort r o = .next t) (ho : ∀ u, o = .next u → u.schedule = s.schedule) :
    t.schedule = s.schedule := by
  obtain ⟨u, rfl, rfl⟩ := finishPort_next h
  simpa [State.schedule] using ho u rfl

/-- A step that issues an operation and then moves on keeps the schedule. -/
theorem afterOp_effect_schedule {r adv o s t} (h : afterOp r adv o = .next t) (ho : ∀ u, o = .next u → HostEffect r s u)
    (ha : ∀ u, (adv u).schedule = u.schedule) : t.schedule = s.schedule :=
  afterOp_schedule h (fun u hu => (ho u hu).schedule) ha

/-! ## The control unit's shell -/

theorem setpwStep_schedule {s t} (h : setpwStep s = .next t) : t.schedule = s.schedule := by
  unfold setpwStep at h
  split at h
  · exact afterOp_effect_schedule h (fun _ => opReceiveText_effect) (fun _ => rfl)
  · cases h; rfl
  · dsimp only at h
    split at h <;> cases h <;> rfl
  · cases h; rfl
  · cases h; rfl

theorem verifyStep_schedule {s t} (h : verifyStep s = .next t) : t.schedule = s.schedule := by
  unfold verifyStep at h
  split at h
  · exact afterOp_effect_schedule h (fun _ => opReceiveText_effect) (fun _ => rfl)
  · cases h; rfl
  · dsimp only at h
    split at h <;> cases h <;> rfl
  · cases h; rfl
  · exact afterOp_effect_schedule h (fun _ => opSendByte_effect) (fun _ => rfl)
  · cases h; rfl

theorem openStep_schedule {s t} (h : openStep s = .next t) : t.schedule = s.schedule := by
  unfold openStep at h
  split at h <;> first
    | (cases h; rfl)
    | exact afterOp_effect_schedule h (fun _ => opDelay1s_effect) (fun _ => rfl)
    | exact afterOp_effect_schedule h (fun _ => opDelay15s_effect) (fun _ => rfl)

theorem lockStep_schedule {s t} (h : lockStep s = .next t) : t.schedule = s.schedule := by
  unfold lockStep at h
  split at h <;> first
    | (cases h; rfl)
    | exact afterOp_effect_schedule h (fun _ => opDelay1s_effect) (fun _ => rfl)
    | exact afterOp_effect_schedule h (fun _ => opDelay15s_effect) (fun _ => rfl)

theorem dispatch_schedule {st s t} (h : dispatch st s = .next t) : t.schedule = s.schedule := by
  unfold dispatch at h
  split at h <;> cases h <;> rfl

theorem commandStep_schedule {st own s t} (ho : own s = .next t → t.schedule = s.schedule) (h : commandStep st own s = .next t) :
    t.schedule = s.schedule := by
  unfold commandStep at h
  split at h
  · split at h
    · split at h
      · exact dispatch_schedule h
      · cases h; rfl
    · split at h
      · exact ho h
      · cases h; rfl
  · cases h; rfl

/-! ## The HMI unit's shell -/

theorem decideMatch_schedule (s : State) : (decideMatch s).schedule = s.schedule := by unfold decideMatch; split <;> rfl

theorem decideFail_schedule (s : State) : (decideFail s).schedule = s.schedule := by
  simp only [decideFail]
  generalize (if s.hmiShell.trials = 0 then (0 : BitVec 2) else s.hmiShell.trials - 1) = n
  split <;> rfl

theorem responseStep_schedule {b msg dec s t} (hd : (dec s).schedule = s.schedule) (h : responseStep b msg dec s = .next t) :
    t.schedule = s.schedule := by
  unfold responseStep at h
  split at h
  · split at h
    · unfold takeResponse at h
      split at h <;> cases h <;> rfl
    · cases h; rfl
    · exact afterOp_effect_schedule h (fun _ => opDelay1s_effect) (fun _ => rfl)
    · cases h; exact hd
    · cases h; rfl
  · cases h; rfl

theorem captureStep_schedule {buf p adv s t} (h : captureStep buf p adv s = .next t) (ha : ∀ u, (adv u).schedule = u.schedule) :
    t.schedule = s.schedule := by
  unfold captureStep at h
  dsimp only at h
  split at h
  · cases h; rfl
  · split at h
    · cases h; rfl
    · split at h
      · cases h; exact ha _
      · split at h <;> cases h; rfl
  all_goals cases h; rfl

theorem choiceStep_schedule {s t} (h : choiceStep s = .next t) : t.schedule = s.schedule := by
  unfold choiceStep at h
  split at h
  · cases h; rfl
  · dsimp only at h
    split at h
    · cases h; rfl
    · split at h <;> cases h <;> rfl

theorem hmiShellStep_schedule {s t} (h : hmiShellStep s = .next t) : t.schedule = s.schedule := by
  unfold hmiShellStep at h
  split at h <;> first
    | (cases h; rfl)
    | exact choiceStep_schedule h
    | exact captureStep_schedule h (fun _ => rfl)
    | exact afterOp_effect_schedule h (fun _ => opSendByte_effect) (fun _ => rfl)
    | exact afterOp_effect_schedule h (fun _ => opSendText_effect) (fun _ => rfl)
    | exact afterOp_effect_schedule h (fun _ => opDelay1s_effect) (fun _ => rfl)
    | exact afterOp_effect_schedule h (fun _ => opDelay15s_effect) (fun _ => rfl)
    | (split at h <;> cases h <;> rfl)

/-! ## Every instruction, every turn -/

theorem runExpansion_schedule {r i first s t} (hf : ∀ u v, first u = .next v → HostEffect r u v)
    (h : runExpansion r i first s = .next t) : t.schedule = s.schedule := by
  unfold runExpansion at h
  split at h
  · refine finishPort_schedule h fun u hu => ?_
    have e := (hf _ _ hu).schedule
    simpa [State.schedule, State.presentFirst] using e
  · cases h; rfl

/-- No instruction touches the schedule. -/
theorem exec_schedule {i s t} (h : exec i s = .next t) : t.schedule = s.schedule := by
  cases i <;> simp only [exec] at h
  case configure => exact (opConfigure_effect h).schedule
  case registerCallback => exact (opRegisterCallback_effect h).schedule
  case disable => exact (opDisable_effect h).schedule
  case waitTicks => exact (opWaitTicks_effect h).schedule
  case sendByte => exact (opSendByte_effect h).schedule
  case receiveByte => exact (opReceiveByte_effect h).schedule
  case sendText => exact (opSendText_effect h).schedule
  case receiveText => exact (opReceiveText_effect h).schedule
  case cmdSetpw => exact commandStep_schedule setpwStep_schedule h
  case cmdVerify => exact commandStep_schedule verifyStep_schedule h
  case cmdOpen => exact commandStep_schedule openStep_schedule h
  case cmdLock => exact commandStep_schedule lockStep_schedule h
  case cmdIgnored =>
    unfold execCmdIgnored at h
    split at h
    · exact dispatch_schedule h
    · cases h; rfl
  case rspMatch => exact responseStep_schedule (decideMatch_schedule s) h
  case rspNomatch => exact responseStep_schedule (decideFail_schedule s) h
  case delay1s => exact (opDelay1s_effect h).schedule
  case delay15s => exact (opDelay15s_effect h).schedule
  case delay60s => exact runExpansion_schedule (fun _ _ => opDelay15s_effect) h
  case delay3s => exact runExpansion_schedule (fun _ _ => opDelay1s_effect) h
  case sendFrame => exact runExpansion_schedule (fun _ _ => opSendByte_effect) h
  all_goals cases h

theorem foregroundStep_schedule {r s t} (h : foregroundStep r s = .next t) : t.schedule = s.schedule := by
  unfold foregroundStep at h
  split at h
  · cases h; rfl
  · split at h
    · exact finishPort_schedule h fun _ => exec_schedule
    · split at h
      · cases h; rfl
      · split at h
        · unfold shellStep at h
          split at h <;> split at h
          · exact exec_schedule h
          · cases h; rfl
          · exact exec_schedule h
          · exact hmiShellStep_schedule h
        · unfold bootStep at h
          split at h
          · exact afterOp_effect_schedule h (fun _ => opRegisterCallback_effect) (fun u => by cases r <;> rfl)
          · cases h; rfl

/-- No turn touches the schedule: a reset event draws its unspecified values from a counter of their own. -/
theorem takeTurn_schedule {e s t} (h : takeTurn e s = .next t) : t.schedule = s.schedule := by
  cases e with
  | fg r => exact (foregroundStep_schedule h).trans rfl
  | clk r => cases h; simp [State.schedule, State.setTimer]
  | irq r => cases h; simp [State.schedule, State.setTimer]
  | key k =>
    cases h
    unfold supplyKey
    split <;> rfl
  | present r w =>
    cases h
    simp only [presentWord]
    split <;> simp [State.schedule]
  | reset r f => cases h; cases r <;> rfl

/-- A transition takes the agenda's first event, or, where there is none, exactly one place of the arbiter. -/
theorem nextTransitionBy_schedule {arb s t} (h : nextTransitionBy arb s = .next t) :
    t.schedule = (s.agenda.tail, if s.agenda = [] then s.turns + 1 else s.turns) := by
  unfold nextTransitionBy at h
  split at h
  · rename_i e rest he
    rw [takeTurn_schedule h, he]
    rfl
  · rename_i he
    rw [takeTurn_schedule h, he]
    rfl

/-! ## Weak fairness -/

/-- After `k` transitions the agenda is `k` events shorter, and the arbiter has given a turn for each transition beyond it. -/
theorem runBy_schedule {arb : Nat → Event} {k : Nat} {s t : State} (h : runBy arb k s = .next t) :
    t.agenda = s.agenda.drop k ∧ t.turns = s.turns + (k - s.agenda.length) := by
  induction k generalizing s with
  | zero =>
    cases h
    exact ⟨rfl, by simp⟩
  | succ k ih =>
    simp only [runBy] at h
    split at h
    · rename_i u hu
      have hs := nextTransitionBy_schedule hu
      have ha : u.agenda = s.agenda.tail := congrArg Prod.fst hs
      have ht : u.turns = if s.agenda = [] then s.turns + 1 else s.turns := congrArg Prod.snd hs
      obtain ⟨h1, h2⟩ := ih h
      rw [h1, h2, ha, ht]
      cases s.agenda with
      | nil => simp; omega
      | cons e rest => simp
    · cases h
    · cases h

/-- Weak fairness (rule R10): under a fair arbiter, from any state, each agent's turn comes after any number of transitions, unless the
run has stopped before. A transition of that agent that stays enabled is therefore taken. -/
theorem fairArbiter_turn_comes {arb : Nat → Event} (hf : FairArbiter arb) {e : Event} (he : e ∈ fairAgents) (s : State) (n : Nat) :
    ∃ k, n ≤ k ∧ ∀ t, runBy arb k s = .next t → nextTransitionBy arb t = takeTurn e { t with turns := t.turns + 1 } := by
  obtain ⟨m, hm, hme⟩ := hf e he (s.turns + n)
  refine ⟨s.agenda.length + (m - s.turns), by omega, fun t ht => ?_⟩
  obtain ⟨h1, h2⟩ := runBy_schedule ht
  have h1 : t.agenda = [] := h1.trans (List.drop_of_length_le (by omega))
  have h2 : t.turns = m := by omega
  simp only [nextTransitionBy, h1]
  rw [h2, hme]

/-- The machine's own runs are the runs under its arbiter. -/
theorem run_eq_runBy (k : Nat) (s : State) : Host.Core.run Sys2Proof.core k s = runBy Config.arbiter k s := by
  induction k generalizing s with
  | zero => rfl
  | succ k ih =>
    have hs : core.step s = nextTransitionBy Config.arbiter s := rfl
    simp only [Host.Core.run, runBy, hs]
    cases nextTransitionBy Config.arbiter s with
    | next t => exact ih t
    | fault e => rfl
    | refused e => rfl

/-- There is a fair arbiter: the agents in turn. -/
theorem roundRobin_fair : FairArbiter fun m => fairAgents.getD (m % 6) (.fg .hmi) := by
  intro e he n
  obtain ⟨j, hj, rfl⟩ := List.mem_iff_getElem.1 he
  have hj6 : j < 6 := hj
  refine ⟨6 * n + j, by omega, ?_⟩
  have : (6 * n + j) % 6 = j := by omega
  simp [this, List.getD_eq_getElem?_getD, hj]

end Sys2Proof.Machine
end

