-- ==== Sys2Proof/Tests/Slice0.lean ====
section
/-! SUPPORT. The model's own tests: the well-formedness checks, the decoders on words written out from the spec's encodings, one
transition of each instruction against the vectors of 95_test_vectors.md, and a witness for the hypotheses of each statement. -/

namespace Sys2Proof.Tests

open Sys2Proof Sys2Proof.Machine

/-! ## Well-formedness: each check refuses an ill-formed term (rules R109 to R111) -/

theorem test_wf_refuses_reserved_prescaler :
    (∀ ps ∈ [0#3, 6#3, 7#3], (Instr.configure 0 0 ps .cmp).wellFormed = false ∧ (Instr.waitTicks 1 0 0 ps .cmp).wellFormed = false)
    ∧ ∀ ps ∈ [1#3, 5#3], (Instr.configure 0 0 ps .cmp).wellFormed = true ∧ (Instr.waitTicks 1 0 0 ps .cmp).wellFormed = true := by
  decide

theorem test_wf_refuses_bad_handle :
    (Instr.registerCallback 0x02).wellFormed = false ∧ (Instr.registerCallback 0x01).wellFormed = true
    ∧ (Instr.registerCallback 0x00).wellFormed = true := by decide

theorem test_wf_refuses_reserved_operations :
    ∀ i ∈ [Instr.reservedOp0, .reservedOp5, .reservedOp6, .reservedOp7, .reservedOpC, .reservedOpD, .reservedOpE, .reservedOpF],
      i.wellFormed = false := by decide

theorem test_wf_refuses_a_command_as_ignored :
    (∀ b ∈ [0x30#8, 0x31, 0x32, 0x33], (Instr.cmdIgnored b).wellFormed = false)
    ∧ ∀ b ∈ [0x00#8, 0x2F, 0x34, 0xFF], (Instr.cmdIgnored b).wellFormed = true := by decide

theorem test_wf_refuses_a_match_as_nomatch :
    (Instr.rspNomatch 0x31).wellFormed = false ∧ (Instr.rspNomatch 0x30).wellFormed = true
    ∧ (Instr.rspNomatch 0x58).wellFormed = true := by decide

theorem test_wf_refuses_a_frame_of_the_wrong_form :
    (Instr.sendFrame 0x30 none).wellFormed = false ∧ (Instr.sendFrame 0x32 (some .pbuf)).wellFormed = false
    ∧ (Instr.sendFrame 0x31 (some .xbuf)).wellFormed = true ∧ (Instr.sendFrame 0x33 none).wellFormed = true := by decide

/-! ## Decoding: words written out field by field from rule R103's layout, and the bytes of rules R109, R110 -/

/-- B1.1: `0001`, `A` = 0, `B` = 7811 = 0x1E83, `PS` = 101, `M` = 1, `N` = 0. -/
theorem test_decode_configure :
    decodeOpw 0b0001_0000000000000000_0001111010000011_101_1_00000000#48 = .configure 0 7811 5 .cmp := by decide

/-- B1.3: `A` = 0xFFFE, `B` = 0, `PS` = 001, `M` = 0. -/
theorem test_decode_configure_free :
    decodeOpw 0b0001_1111111111111110_0000000000000000_001_0_00000000#48 = .configure 0xFFFE 0 1 .free := by decide

/-- B1.10. -/
theorem test_decode_register_callback :
    decodeOpw 0b0010_0000000000000000_0000000000000000_000_0_00000001#48 = .registerCallback 1 := by decide

/-- B1.12 and B1.23: unused fields are ignored. -/
theorem test_decode_disable : decodeOpw 0x300000000000#48 = .disable ∧ decodeOpw 0x3FFFFFFFFFFF#48 = .disable := by decide

/-- B1.14: `B` = 58593 = 0xE4E1, `N` = 2. -/
theorem test_decode_wait_ticks :
    decodeOpw 0b0100_0000000000000000_1110010011100001_101_1_00000010#48 = .waitTicks 2 0 58593 5 .cmp := by decide

/-- B1.18. -/
theorem test_decode_send_byte :
    decodeOpw 0b1000_0000000000000000_0000000000000000_000_0_00110010#48 = .sendByte 0x32 := by decide

/-- B1.19 and B1.21. -/
theorem test_decode_receive :
    decodeOpw 0x900000000000#48 = .receiveByte ∧ decodeOpw 0xB00000000000#48 = .receiveText := by decide

/-- B1.20 and B1.24: `N[0]` alone selects the buffer. -/
theorem test_decode_send_text :
    decodeOpw 0xA00000000001#48 = .sendText .xbuf ∧ decodeOpw 0xA000000000FE#48 = .sendText .pbuf := by decide

/-- B1.22. -/
theorem test_decode_reserved :
    decodeOpw 0x000000000000#48 = .reservedOp0 ∧ decodeOpw 0x500000000000#48 = .reservedOp5
    ∧ decodeOpw 0x600000000000#48 = .reservedOp6 ∧ decodeOpw 0x700000000000#48 = .reservedOp7
    ∧ decodeOpw 0xC00000000000#48 = .reservedOpC ∧ decodeOpw 0xD00000000000#48 = .reservedOpD
    ∧ decodeOpw 0xE00000000000#48 = .reservedOpE ∧ decodeOpw 0xF00000000000#48 = .reservedOpF := by decide

/-- Rule R109's table. -/
theorem test_decode_commands :
    decodeCmd 0b00110000#8 = .cmdSetpw ∧ decodeCmd 0b00110001#8 = .cmdVerify ∧ decodeCmd 0b00110010#8 = .cmdOpen
    ∧ decodeCmd 0b00110011#8 = .cmdLock ∧ ∀ b ∈ [0x00#8, 0x0D, 0x2F, 0x34, 0x41, 0xFF], decodeCmd b = .cmdIgnored b := by decide

/-- Rule R110 and B8.11. -/
theorem test_decode_responses :
    decodeRsp 0b00110001#8 = .rspMatch ∧ ∀ b ∈ [0x30#8, 0x58, 0x00, 0xFF], decodeRsp b = .rspNomatch b := by decide

/-- The rows of spec/opcode_table.json for the pseudo-instructions: their expansions as words (rule R114). -/
theorem test_encode_pseudo :
    encode .delay1s = [.op 0x400001E83B01#48] ∧ encode .delay15s = [.op 0x40000E4E1B02#48]
    ∧ encode .delay60s = [.op 0x40000E4E1B02#48, .op 0x40000E4E1B02#48, .op 0x40000E4E1B02#48, .op 0x40000E4E1B02#48]
    ∧ encode .delay3s = [.op 0x400001E83B01#48, .op 0x400001E83B01#48, .op 0x400001E83B01#48]
    ∧ encode (.sendFrame 0x31 (some .pbuf)) = [.op 0x800000000031#48, .op 0xA00000000000#48]
    ∧ encode (.sendFrame 0x33 none) = [.op 0x800000000033#48] := by decide

/-- B2.1, B2.4 and B2.5: frames as bytes. -/
theorem test_frame_bytes :
    (Frame.payload 0x30 [0x31, 0x32, 0x33, 0x34]).bytes = [0x30, 0x31, 0x32, 0x33, 0x34, 0x00]
    ∧ (Frame.payload 0x30 [0x31, 0x32, 0x33, 0x34, 0x35, 0x36, 0x37, 0x38, 0x39]).bytes.length = 11
    ∧ (Frame.bare 0x32).bytes = [0x32] := by decide

/-- B2.7: how a stream is cut into frames. -/
theorem test_frame_cut :
    cutFrame [0x31, 0x32, 0x00, 0x32] = .ok (.payload 0x31 [0x32], [0x32]) ∧ cutFrame [0x32] = .ok (.bare 0x32, []) := by decide

/-- B2.9: the character 0x31 on the line. -/
theorem test_character :
    charBits 0x31 = [false, true, false, false, false, true, true, false, false, true] := by decide

/-- Rule R113's notation. -/
theorem test_assembly :
    (Instr.registerCallback 1).asm = some "register_callback tick_inc" ∧ Instr.cmdVerify.asm = some "frame '1'" := by decide

/-! ## Small states -/

/-- Some parameters that meet rule R7's constraints. -/
def params : Params := { keyOpen := 0x2B, keyChange := 0x2D, pwBase := 0x10, stAddrW := 10 }

/-- An instance after its boot step. -/
def booted : Block := { Block.reset with timer := { Timer.reset with cb := .tickInc } }

/-- Both units booted, the control unit moving. -/
def sys : State :=
  { params := params, hmi := booted, hmiShell := { HmiShell.reset with booted := true }, ctrl := booted
    ctrlShell := { CtrlShell.reset with booted := true }, store := [], key := none, disp := [], cur := .ctrl
    agenda := [], turns := 0, draws := 0 }

/-- `sys` with the control unit's instance changed. -/
def withCtrl (b : Block) : State := { sys with ctrl := b }

/-- `sys` with bytes waiting for the control unit. -/
def queued (q : List Byte) : State := withCtrl { booted with rxq := q }

/-- The control unit's shell at a place, its turn next. -/
def ctrlAt (st : CtrlState) (k : BitVec 5) (b : Block) : State :=
  { sys with ctrlShell := { sys.ctrlShell with st := st, step := k }, ctrl := b, agenda := [.fg .ctrl] }

/-- The HMI unit's shell at a place, its turn next. -/
def hmiAt (st : HmiState) (k : BitVec 5) (b : Block) : State :=
  { sys with hmiShell := { sys.hmiShell with st := st, step := k }, hmi := b, cur := .hmi, agenda := [.fg .hmi] }

/-- An instance inside `wait_ticks 2, 0, 3, 1, cmp` (B1.16). -/
def waiting : Block :=
  { booted with
    timer := { count := 0, compare := 3, psel := 1, mode := .cmp, run := true, ie := true, pending := false, pdiv := 0
               cb := .tickInc, ticks := 0, waiting := true, wtarget := 2 }
    act := .inWait }

/-- The same wait with no callback (P6). -/
def hung : Block := { waiting with timer := { waiting.timer with cb := .none } }

/-- A text buffer with a text in it, zeros behind. -/
def textOf (l : List Byte) : Text := { bytes := Vector.ofFn fun i => l.getD i.val 0, len := BitVec.ofNat 4 l.length }

/-- The next state's projection, where there is one. -/
def after {α : Type} (f : State → α) (o : Result) : Option α :=
  match o with
  | .next t => some (f t)
  | .fault _ => none
  | .refused _ => none

/-! ## One transition of each instruction -/

/-- B3.1. -/
theorem test_configure :
    after (·.ctrl.timer) (exec (.configure 0 7811 5 .cmp) sys)
      = some { booted.timer with compare := 7811, psel := 5, mode := .cmp, run := true, ie := true } := by decide

/-- B1.7. -/
theorem test_configure_reserved : exec (.configure 0 0 6 .cmp) sys = .refused .reservedPrescaler := rfl

/-- B3.5: null does not unregister. -/
theorem test_register_callback_null : after (·.ctrl.timer.cb) (exec (.registerCallback 0) sys) = some .tickInc := by decide

/-- B1.11. -/
theorem test_register_callback_bad : exec (.registerCallback 2) sys = .refused .badHandler := rfl

/-- B3.6: a pending firing is discarded. -/
theorem test_disable :
    after (fun t => (t.ctrl.timer.run, t.ctrl.timer.pending, t.ctrl.timer.compare))
      (exec .disable (withCtrl { waiting with act := .idle, timer := { waiting.timer with waiting := false, pending := true } }))
      = some (false, false, 3) := by decide

/-- B5.1, begin. -/
theorem test_wait_ticks :
    after (·.ctrl.timer) (exec (.waitTicks 2 0 3 1 .cmp) sys) = some waiting.timer := by decide

/-- B5.2: complete in the begin step, `WTARGET` unchanged. -/
theorem test_wait_ticks_zero :
    after (fun t => (t.ctrl.timer, t.ctrl.act)) (exec (.waitTicks 0 0 7811 5 .cmp) sys)
      = some ({ booted.timer with compare := 7811, psel := 5, mode := .cmp }, .idle) := by decide

/-- B6.1. -/
theorem test_send_byte : after (·.hmi.rxq) (exec (.sendByte 0x32) sys) = some [0x32] := by decide

/-- B6.2. -/
theorem test_receive_byte :
    after (fun t => (t.ctrl.res, t.ctrl.rxq)) (exec .receiveByte (queued [0x31, 0x31, 0x00])) = some (0x31, [0x31, 0x00]) := by
  decide

/-- B6.3: blocked. -/
theorem test_receive_byte_blocks : after (·.ctrl.act) (exec .receiveByte sys) = some .inReceiveByte := by decide

/-- B6.6, first byte. -/
theorem test_send_text :
    after (·.hmi.rxq) (exec (.sendText .xbuf) (withCtrl { booted with xbuf := textOf [0x39] })) = some [0x39] := by decide

/-- B6.5: only the terminator. -/
theorem test_send_text_empty : after (·.hmi.rxq) (exec (.sendText .pbuf) sys) = some [0x00] := by decide

/-- B6.8: a text of length 0. -/
theorem test_receive_text_empty :
    after (fun t => (t.ctrl.rxq, t.ctrl.pbuf.len, t.ctrl.act)) (exec .receiveText (queued [0x00, 0x33]))
      = some ([0x33], 0, .idle) := by decide

/-- B6.10: the tenth byte. -/
theorem test_receive_text_overflow :
    exec .receiveText (withCtrl { booted with
      rxq := [0x30, 0x00], act := .inReceiveText, pbuf := textOf [1, 2, 3, 4, 5, 6, 7, 8, 9] }) = .fault (.bufferOverflow 0x30) := rfl

/-- B1.22. -/
theorem test_reserved :
    exec .reservedOp0 sys = .refused .reservedOp ∧ exec .reservedOpF sys = .refused .reservedOp := ⟨rfl, rfl⟩

/-- B7.1, the copy of one byte to `PW_BASE` + 0. -/
theorem test_cmd_setpw :
    after (fun t => (t.store, t.ctrlShell.idx)) (exec .cmdSetpw (ctrlAt .setpw 2 { booted with pbuf := textOf [0x31, 0x32] }))
      = some ([(0x10, 0x31)], 1) := by decide

/-- B7.2 and B7.3, the verdicts. -/
theorem test_cmd_verify :
    after (·.hmi.rxq) (exec .cmdVerify (ctrlAt .verify 4 { booted with pbuf := textOf [0x31, 0x32], xbuf := textOf [0x31, 0x32] }))
      = some [0x31]
    ∧ after (·.hmi.rxq) (exec .cmdVerify (ctrlAt .verify 4 { booted with pbuf := textOf [0x31, 0x33], xbuf := textOf [0x31, 0x32] }))
      = some [0x30] := by decide

/-- B7.4: lengths differ. -/
theorem test_cmd_verify_shorter :
    after (·.hmi.rxq) (exec .cmdVerify (ctrlAt .verify 4 { booted with pbuf := textOf [0x31], xbuf := textOf [0x31, 0x32] }))
      = some [0x30] := by decide

/-- B7.8, the first row. -/
theorem test_cmd_open :
    after (fun t => (t.ctrlShell.motor, t.ctrlShell.step)) (exec .cmdOpen (ctrlAt .open 0 booted)) = some (.forward, 1) := by decide

/-- B7.9, the first row. -/
theorem test_cmd_lock :
    after (fun t => (t.ctrlShell.alarm, t.ctrlShell.step)) (exec .cmdLock (ctrlAt .lock 0 booted)) = some (.on, 1) := by decide

/-- B7.10: consumed, nothing else. -/
theorem test_cmd_ignored : exec (.cmdIgnored 0x41) (queued [0x41, 0x32]) = .next (queued [0x32]) := rfl

/-- B8.7 and B8.8: the decision on a match. -/
theorem test_rsp_match :
    after (·.hmiShell.st) (exec .rspMatch (hmiAt .verify 7 booted)) = some .opening := by decide

/-- B8.9: a trial is spent; `TRIALS` was 3. -/
theorem test_rsp_nomatch :
    after (fun t => (t.hmiShell.trials, t.hmiShell.st, t.hmiShell.step)) (exec (.rspNomatch 0x30) (hmiAt .verify 7 booted))
      = some (2, .verify, 0) := by decide

/-- B5.3, begin. -/
theorem test_delay_1s :
    after (fun t => (t.ctrl.timer.compare, t.ctrl.timer.psel, t.ctrl.timer.wtarget, t.ctrl.timer.waiting)) (exec .delay1s sys)
      = some (7811, 5, 1, true) := by decide

/-- B5.4, begin. -/
theorem test_delay_15s :
    after (fun t => (t.ctrl.timer.compare, t.ctrl.timer.psel, t.ctrl.timer.wtarget, t.ctrl.timer.waiting)) (exec .delay15s sys)
      = some (58593, 5, 2, true) := by decide

/-- Rule R140: four constituent waits, the first begun. -/
theorem test_delay_60s :
    after (fun t => (t.ctrl.port.length, t.ctrl.timer.wtarget)) (exec .delay60s sys) = some (4, 2) := by decide

/-- Rule R140: three constituent waits, the first begun. -/
theorem test_delay_3s :
    after (fun t => (t.ctrl.port.length, t.ctrl.timer.wtarget)) (exec .delay3s sys) = some (3, 1) := by decide

/-- Rule R112: the opcode first, then the text. -/
theorem test_send_frame :
    after (fun t => (t.hmi.rxq, t.ctrl.port)) (exec (.sendFrame 0x31 (some .pbuf)) sys) = some ([0x31], [0xA00000000000#48]) := by
  decide

/-! ## The other agents -/

/-- B4.1: the fourth count event fires. -/
theorem test_count_events :
    (countEvents 3 waiting.timer).count = 3 ∧ (countEvents 3 waiting.timer).pending = false
    ∧ (countEvents 4 waiting.timer).count = 0 ∧ (countEvents 4 waiting.timer).pending = true := by decide

/-- B9.2: the increment that reaches the target completes the wait. -/
theorem test_handler_completes :
    ({ waiting.timer with ticks := 1, pending := true } : Timer).takeInterrupt
      = { waiting.timer with run := false, ie := false, waiting := false } := by decide

/-- B9.3 and B9.5: no callback; the wrap. -/
theorem test_handler_without_callback_and_wrap :
    ({ hung.timer with pending := true } : Timer).takeInterrupt = hung.timer
    ∧ ({ waiting.timer with waiting := false, pending := true, ticks := 255 } : Timer).takeInterrupt.ticks = 0 := by decide

/-- B10.3: the boot step from the reset state. -/
theorem test_boot :
    after (fun t => (t.ctrl.timer.cb, t.ctrlShell.booted)) (step { State.reset with agenda := [.fg .ctrl] })
      = some (.tickInc, true) := rfl

/-- The whole address space of `STORE` keeps its form under writes in any order; the last write wins. -/
theorem test_store :
    ((Memory.write [] 0x12 1).write 0x10 2).write 0x12 3 = [(0x10, 2), (0x12, 3)] := by decide

/-- A placed operation word and a placed opcode byte are what the next step runs, from reset. -/
theorem test_with_fetch_word :
    after (·.ctrl.timer.compare) (step (State.reset.withFetchWord 48 0x400001E83B01)) = some 7811
    ∧ after (·.ctrlShell.st) (step (State.reset.withFetchWord 8 0x33)) = some .lock := ⟨rfl, rfl⟩

/-! ## Witnesses: for each statement with hypotheses, concrete states and operands that meet them, clause by clause -/

/-! ### Encoding -/

theorem witness_DecodeInvertsEncode :
    encodeOpw (.waitTicks 255 0xFFFF 0xFFFF 7 .cmp) = some 0x4FFFFFFFFFFF#48 ∧ encodeOpw .reservedOp0 = some 0
    ∧ (Instr.sendFrame 0x30 (some .xbuf)).wellFormed = true ∧ (Instr.cmdIgnored 0xFF).wellFormed = true := by decide

theorem witness_DecodersReadTheirTables :
    (∀ k < 16, opselOf (BitVec.ofNat 48 (k * 2 ^ 44)) = BitVec.ofNat 4 k)
    ∧ (∀ b ∈ [0x2F#8, 0x34], b ≠ 0x30 ∧ b ≠ 0x31 ∧ b ≠ 0x32 ∧ b ≠ 0x33) := by decide

theorem witness_FramesCutBackFromTheirBytes :
    (∀ text ∈ [[], [1, 2, 3, 4, 5, 6, 7, 8, (9 : Byte)]], text.length ≤ 9 ∧ ∀ b ∈ text, b ≠ 0)
    ∧ (0x32 : Byte) ≠ 0x30 ∧ (0x32 : Byte) ≠ 0x31 := by decide

/-! ### The Tick Timer -/

/-- `sys` with stale ticks (B5.11). -/
def stale : State := withCtrl { booted with timer := { booted.timer with ticks := 1 } }

/-- `sys` between a wait's completion and the foreground's return. -/
def completed : State := withCtrl { booted with act := .inWait }

theorem witness_ConfigureArmsTheCounter :
    (sys.block sys.cur).ready = true ∧ (∀ ps ∈ [1#3, 5#3], 1 ≤ ps.toNat ∧ ps.toNat ≤ 5)
    ∧ ∀ ps ∈ [0#3, 6#3, 7#3], ps = 0 ∨ ps = 6 ∨ ps = 7 := by decide

theorem witness_RegisterCallbackInstallsOnlyTickInc :
    (sys.block sys.cur).ready = true ∧ (0x02 : Byte) ≠ 0x00 ∧ (0x02 : Byte) ≠ 0x01 := by decide

theorem witness_DisableStopsAndMasks : (sys.block sys.cur).ready = true := rfl

theorem witness_WaitTicksBegins :
    (stale.block stale.cur).ready = true ∧ (stale.timer stale.cur).ticks ≠ 0
    ∧ (sys.block sys.cur).ready = true ∧ (sys.timer sys.cur).ticks = 0
    ∧ (∀ ps ∈ [1#3, 5#3], 1 ≤ ps.toNat ∧ ps.toNat ≤ 5) ∧ (255 : Tick) ≠ 0 := by decide

theorem witness_CompletedWaitReturnsToTheForeground :
    (completed.timer completed.cur).waiting = false ∧ (completed.block completed.cur).act = .inWait := by decide

theorem witness_NoOperationWhileWaiting :
    ((withCtrl waiting).timer .ctrl).waiting = true
    ∧ (∀ i ∈ [Instr.disable, .sendByte 0, .receiveText, .delay60s, .sendFrame 0x32 none], isIssued i = true)
    ∧ (let s := { withCtrl waiting with agenda := [.fg .ctrl] }; s.agenda = .fg .ctrl :: [] ∧ (s.timer .ctrl).waiting = true)
    ∧ (∀ i ∈ [Instr.cmdSetpw, .cmdVerify, .cmdOpen, .cmdLock, .cmdIgnored 0x41], i.stream = .cmd)
    ∧ (∀ i ∈ [Instr.rspMatch, .rspNomatch 0x30], i.stream = .rsp)
    ∧ (withCtrl waiting).ctrl.timer.waiting = true ∧ (hmiAt .verify 4 waiting).hmi.timer.waiting = true := by decide

theorem witness_DelaysBeginTheirProfiles : (sys.block sys.cur).ready = true ∧ (sys.timer sys.cur).ticks = 0 := by decide

/-- `sys` with the control unit running firmware. -/
def firmware : State := withCtrl { booted with fore := .firmware }

/-- Both delays begin, and a schedule of all the agents but those left out runs. -/
theorem witness_LongDelaysTakeTheirCompleteWaits :
    (firmware.block firmware.cur).ready = true ∧ (firmware.block firmware.cur).fore = .firmware
    ∧ (firmware.block firmware.cur).port = [] ∧ (firmware.timer firmware.cur).ticks = 0 ∧ (firmware.timer firmware.cur).cb = .tickInc
    ∧ (let sched : List Event := [.clk .ctrl, .irq .ctrl, .fg .ctrl, .fg .hmi, .key 0x31, .reset .hmi .firmware, .present .hmi 0]
      (∀ f, Event.reset .ctrl f ∉ sched) ∧ (∀ w, Event.present .ctrl w ∉ sched)
      ∧ ∀ i ∈ [Instr.delay60s, .delay3s], ∃ u, exec i firmware = .next u
        ∧ ∃ t, Host.Core.run Sys2Proof.core sched.length { u with agenda := sched } = .next t) := by
  refine ⟨rfl, rfl, rfl, rfl, rfl, fun f => by cases f <;> decide, fun w => by simp, fun i hi => ?_⟩
  simp only [List.mem_cons, List.not_mem_nil, or_false] at hi
  rcases hi with rfl | rfl <;> exact ⟨_, rfl, _, rfl⟩

/-- Rule R140: a wait of the delay ends, the next begins, and the last empties the port (the firing itself given, not counted to). -/
theorem test_delay_3s_ends :
    let fired (s : State) : State := s.setTimer .ctrl { s.timer .ctrl with pending := true }
    let wait (s : State) : Option State :=
      match Host.Core.run Sys2Proof.core 3 { fired s with agenda := [.irq .ctrl, .fg .ctrl, .fg .ctrl] } with
      | .next t => some t
      | .fault _ => none
      | .refused _ => none
    (after id (exec .delay3s firmware)).bind wait |>.map (fun t => (t.ctrl.port.length, t.ctrl.timer.waiting)) = some (2, true) := by
  decide

/-- The control unit's clock has its turn. -/
def clkTurn (t : Timer) : State := { withCtrl { booted with timer := t } with agenda := [.clk .ctrl] }

theorem witness_ClockTurnDrivesTheDivider :
    (clkTurn booted.timer).agenda = [.clk .ctrl] ∧ ((clkTurn booted.timer).timer .ctrl).run = false
    ∧ (∀ d ∈ [0#10, 1022#10], let t := ((clkTurn { waiting.timer with psel := 5, pdiv := d }).timer .ctrl)
        t.run = true ∧ divisor t.psel = some 1024 ∧ t.pdiv.toNat + 1 ≠ 1024)
    ∧ (let t := ((clkTurn { waiting.timer with psel := 5, pdiv := 1023 }).timer .ctrl);
        t.run = true ∧ divisor t.psel = some 1024 ∧ t.pdiv.toNat + 1 = 1024)
    ∧ (let t := ((clkTurn waiting.timer).timer .ctrl);
        t.run = true ∧ divisor t.psel = some 1 ∧ t.pdiv.toNat + 1 = 1) := by decide

theorem witness_CountEventFiresByMode :
    (let t := { waiting.timer with count := 3 }; t.mode = .cmp ∧ t.count = t.compare)
    ∧ (let t := { waiting.timer with count := 65535 }; t.mode = .cmp ∧ t.count ≠ t.compare)
    ∧ (let t := { waiting.timer with mode := .free, count := 65535 }; t.mode = .free ∧ t.count = 65535)
    ∧ (let t := { waiting.timer with mode := .free, count := 3 }; t.mode = .free ∧ t.count ≠ 65535) := by decide

theorem witness_FiringPeriodsOfTheModes :
    waiting.timer.pending = false ∧ ({ waiting.timer with mode := .free, count := 65535 } : Timer).pending = false := by decide

theorem witness_PrescalerDividesTheClock :
    waiting.timer.run = true ∧ divisor waiting.timer.psel = some 1 ∧ waiting.timer.pdiv = 0
    ∧ divisor ({ waiting.timer with psel := 5 } : Timer).psel = some 1024 := by decide

/-- The control unit's handler has its turn. -/
def irqTurn (t : Timer) : State := { withCtrl { waiting with timer := t } with agenda := [.irq .ctrl] }

theorem witness_HandlerTurnIncrementsAndCompletes :
    (irqTurn waiting.timer).agenda = [.irq .ctrl] ∧ ((irqTurn waiting.timer).timer .ctrl).pending = false
    ∧ (let t := (irqTurn { hung.timer with pending := true }).timer .ctrl;
        t.pending = true ∧ t.ie = true ∧ t.cb = .none)
    ∧ (let t := (irqTurn { waiting.timer with pending := true }).timer .ctrl;
        t.pending = true ∧ t.ie = true ∧ t.cb = .tickInc ∧ ¬(t.waiting = true ∧ t.ticks + 1 = t.wtarget))
    ∧ (let t := (irqTurn { waiting.timer with pending := true, waiting := false, ticks := 255, wtarget := 0 }).timer .ctrl;
        t.pending = true ∧ t.ie = true ∧ t.cb = .tickInc ∧ ¬(t.waiting = true ∧ t.ticks + 1 = t.wtarget))
    ∧ (let t := (irqTurn { waiting.timer with pending := true, ticks := 1 }).timer .ctrl;
        t.pending = true ∧ t.ie = true ∧ t.cb = .tickInc ∧ t.waiting = true ∧ t.ticks + 1 = t.wtarget) := by decide

theorem waiting_inv : waiting.timer.Inv := ⟨rfl, by decide, nofun, by decide, fun _ p hp => by cases hp; decide⟩

theorem booted_inv : booted.timer.Inv := ⟨rfl, nofun, nofun, nofun, nofun⟩

theorem hung_inv : hung.timer.Inv := ⟨rfl, by decide, nofun, by decide, fun _ p hp => by cases hp; decide⟩

theorem witness_WaitTakesExactlyItsHandlerSteps :
    waiting.timer.Inv ∧ waiting.timer.waiting = true ∧ waiting.timer.ticks = 0 ∧ waiting.timer.cb = .tickInc :=
  ⟨waiting_inv, rfl, rfl, rfl⟩

/-- Both cases of the conclusion occur: the run of B5.1, and the same run cut short. -/
theorem test_WaitTakesExactlyItsHandlerSteps :
    let half := [TimerTurn.clk, .clk, .clk, .clk, .irq]
    (timerRun half waiting.timer).2 = 1 ∧ (timerRun half waiting.timer).1.waiting = true
    ∧ (timerRun (half ++ half) waiting.timer).2 = 2 ∧ (timerRun (half ++ half) waiting.timer).1.waiting = false := by decide

/-- `sys` with the control unit hung (P6) and some turns ahead. -/
def hungRun : State := { withCtrl hung with agenda := [.fg .ctrl, .clk .ctrl, .irq .ctrl, .fg .hmi, .key 0x31, .reset .hmi .shell] }

theorem witness_WaitWithoutCallbackNeverEnds :
    (hungRun.timer .ctrl).waiting = true ∧ (hungRun.timer .ctrl).cb = .none ∧ 6 ≤ hungRun.agenda.length
    ∧ (∀ f, Event.reset .ctrl f ∉ hungRun.agenda) ∧ ∃ t, Host.Core.run Sys2Proof.core 6 hungRun = .next t :=
  ⟨rfl, rfl, by decide, fun f => by cases f <;> decide, _, rfl⟩

/-- The control unit waits and an event is next. -/
def waitingThen (e : Event) : State := { withCtrl waiting with agenda := [e] }

theorem witness_WaitingTimerChangesOnlyByItsOwnTurns :
    ∀ e ∈ [Event.fg .ctrl, .fg .hmi, .clk .ctrl, .irq .ctrl, .reset .ctrl .shell, .reset .hmi .shell, .key 0x31, .present .hmi 0],
      (waitingThen e).agenda = [e] ∧ ((waitingThen e).timer .ctrl).waiting = true ∧ ∃ t, step (waitingThen e) = .next t := by
  intro e he
  simp only [List.mem_cons, List.not_mem_nil, or_false] at he
  rcases he with rfl | rfl | rfl | rfl | rfl | rfl | rfl | rfl <;> exact ⟨rfl, rfl, _, rfl⟩

theorem witness_OnlyTheHandlerChangesTicks :
    ∀ e ∈ [Event.fg .ctrl, .clk .ctrl, .irq .hmi, .reset .hmi .shell],
      (waitingThen e).agenda = [e] ∧ (∃ t, step (waitingThen e) = .next t) ∧ e ≠ .irq .ctrl ∧ ∀ f, e ≠ .reset .ctrl f := by
  intro e he
  simp only [List.mem_cons, List.not_mem_nil, or_false] at he
  rcases he with rfl | rfl | rfl | rfl <;> exact ⟨rfl, ⟨_, rfl⟩, nofun, nofun⟩

/-! ### The Command Framer -/

theorem witness_SendByteJoinsThePeersQueue : (sys.block sys.cur).ready = true := rfl

theorem witness_ReceiveByteTakesTheOldest :
    (∀ s ∈ [queued [0x31], withCtrl { booted with rxq := [0x31], act := .inReceiveByte }],
      (s.timer s.cur).waiting = false ∧ ((s.block s.cur).act = .idle ∨ (s.block s.cur).act = .inReceiveByte)
      ∧ (s.block s.cur).rxq = [0x31])
    ∧ (sys.block sys.cur).rxq = [] ∧ (sys.timer sys.cur).waiting = false ∧ (sys.block sys.cur).act = .idle := by decide

theorem witness_SendTextSendsTextAndTerminator :
    ∀ s ∈ [sys, withCtrl { booted with pbuf := textOf [1, 2, 3, 4, 5, 6, 7, 8, 9] }], (s.block s.cur).ready = true := by decide

/-- The control unit inside `send_text pbuf` of a text of two bytes. -/
def sending (a : Activity) : State := withCtrl { booted with pbuf := textOf [0x31, 0x32], act := a }

theorem witness_SendTextByteSteps :
    (∀ i ∈ [0#4, 1, 2], let s := sending (.inSendText .pbuf i)
      (s.timer s.cur).waiting = false ∧ (s.block s.cur).act = .inSendText .pbuf i)
    ∧ ((sending .idle).block .ctrl).act = .idle
    ∧ (1#4).toNat < (((sending .idle).block .ctrl).text .pbuf).len.toNat
    ∧ (((sending .idle).block .ctrl).text .pbuf).len.toNat ≤ (2#4).toNat := by decide

/-- The control unit inside `receive_text` with a text so far and bytes waiting. -/
def receiving (t q : List Byte) : State := withCtrl { booted with rxq := q, pbuf := textOf t, act := .inReceiveText }

theorem witness_ReceiveTextByteSteps :
    (∀ s ∈ [receiving [] [], receiving [1, 2, 3, 4, 5, 6, 7, 8, 9] [0x00], receiving [1, 2, 3, 4, 5, 6, 7, 8] [0x30],
        receiving [1, 2, 3, 4, 5, 6, 7, 8, 9] [0x30]],
      (s.timer s.cur).waiting = false ∧ (s.block s.cur).act = .inReceiveText)
    ∧ (∀ q ∈ [[], [0x00], [(0x31 : Byte)]], ((queued q).block (queued q).cur).ready = true ∧ ((queued q).block (queued q).cur).rxq = q)
    ∧ (receiving [] []).ctrl.rxq = [] ∧ (receiving [1, 2, 3, 4, 5, 6, 7, 8, 9] [0x00]).ctrl.rxq = [0x00]
    ∧ (receiving [1, 2, 3, 4, 5, 6, 7, 8] [0x30]).ctrl.rxq = [0x30]
    ∧ (receiving [1, 2, 3, 4, 5, 6, 7, 8] [0x30]).ctrl.pbuf.len.toNat < 9
    ∧ (receiving [1, 2, 3, 4, 5, 6, 7, 8, 9] [0x30]).ctrl.rxq = [0x30]
    ∧ (receiving [1, 2, 3, 4, 5, 6, 7, 8, 9] [0x30]).ctrl.pbuf.len = 9 ∧ (0x30 : Byte) ≠ 0x00 := by decide

theorem witness_ReceiveTextFillsTheBuffer :
    ∀ text ∈ [[], [1, 2, 3, 4, 5, 6, 7, 8, (9 : Byte)]],
      let s := queued (text ++ [0x00, 0x32])
      (s.block s.cur).ready = true ∧ text.length ≤ 9 ∧ (∀ b ∈ text, b ≠ 0x00) ∧ (s.block s.cur).rxq = text ++ 0x00 :: [0x32] := by
  decide

theorem witness_SendFrameSendsTheOpcodeFirst : (sys.block sys.cur).ready = true := rfl

/-- The HMI unit's firmware sends a text of two bytes and the control unit's receives it. -/
def crossing : State :=
  { sys with
    hmi := { booted with fore := .firmware, port := [0xA00000000000#48], pbuf := textOf [0x31, 0x32] }
    ctrl := { booted with fore := .firmware, port := [0xB00000000000#48] }
    agenda := [.fg .hmi, .fg .hmi, .fg .hmi, .fg .ctrl, .fg .ctrl, .fg .ctrl] }

theorem witness_TextCrossesTheLink :
    let text := (crossing.block .hmi).text .pbuf
    (crossing.block .hmi).ready = true ∧ (crossing.block (Role.hmi).peer).ready = true
    ∧ (crossing.block .hmi).port = [if BufSel.pbuf = .pbuf then 0xA00000000000#48 else 0xA00000000001#48]
    ∧ (crossing.block (Role.hmi).peer).port = [0xB00000000000#48]
    ∧ (crossing.block (Role.hmi).peer).rxq = [] ∧ text.len.toNat ≤ 9 ∧ (∀ b ∈ text.content, b ≠ 0x00)
    ∧ crossing.agenda = List.replicate (text.len.toNat + 1) (.fg .hmi)
      ++ List.replicate (text.len.toNat + 1) (.fg (Role.hmi).peer) := by decide

theorem witness_LinkPopsItsOldestAndAppendsAtItsEnd :
    ∀ e ∈ [Event.fg .ctrl, .fg .hmi, .reset .ctrl .shell, .clk .ctrl],
      let s := { queued [0x32, 0x33] with agenda := [e] }
      s.agenda = [e] ∧ ∃ t, step s = .next t := by
  intro e he
  simp only [List.mem_cons, List.not_mem_nil, or_false] at he
  rcases he with rfl | rfl | rfl | rfl <;> exact ⟨rfl, _, rfl⟩

/-! ### The control-unit shell -/

/-- The control unit's shell has its turn, wherever it is. -/
theorem ctrl_turn (st : CtrlState) (k : BitVec 5) (q : List Byte) : ShellTurn (ctrlAt st k { booted with rxq := q }) .ctrl [] :=
  ⟨rfl, rfl, rfl, rfl, rfl⟩

theorem witness_DispatchEntersTheHandler :
    (∀ b : Byte, ∀ q ∈ [[], [b, 0x32]], let s := ctrlAt .wait 0 { booted with rxq := q }
      ShellTurn s .ctrl [] ∧ s.ctrlShell.booted = true ∧ s.ctrl.timer.waiting = false ∧ s.ctrlShell.st = .wait ∧ s.ctrlShell.step = 0
      ∧ s.ctrl.rxq = q)
    ∧ (∀ b ∈ [0x2F#8, 0x34], (Instr.cmdIgnored b).wellFormed = true)
    ∧ (∀ i ∈ [Instr.cmdSetpw, .cmdVerify, .cmdOpen, .cmdLock, .cmdIgnored 0xFF], i.stream = .cmd) :=
  ⟨fun _ _ _ => ⟨ctrl_turn _ _ _, rfl, rfl, rfl, rfl, rfl⟩, by decide, by decide⟩

/-- The control unit's shell at a loop step, with a text of one byte, a stored length of one, and an index. -/
def looping (st : CtrlState) (i : BitVec 4) : State :=
  let s := ctrlAt st 2 { booted with pbuf := textOf [0x31] }
  { s with ctrlShell := { s.ctrlShell with idx := i, pwlen := 1 } }

theorem witness_SetpwCopiesTheText :
    (∀ s ∈ [ctrlAt .setpw 1 booted, looping .setpw 1, looping .setpw 0, ctrlAt .setpw 3 booted],
      s.ctrlShell.booted = true ∧ s.ctrl.timer.waiting = false ∧ s.ctrlShell.st = .setpw)
    ∧ (ctrlAt .setpw 1 booted).ctrlShell.step = 1 ∧ (looping .setpw 1).ctrlShell.step = 2
    ∧ (looping .setpw 1).ctrlShell.idx = (looping .setpw 1).ctrl.pbuf.len
    ∧ (looping .setpw 0).ctrlShell.idx ≠ (looping .setpw 0).ctrl.pbuf.len ∧ (ctrlAt .setpw 3 booted).ctrlShell.step = 3 := by decide

theorem witness_VerifyReadsBackAndReplies :
    (∀ s ∈ [ctrlAt .verify 1 booted, looping .verify 1, looping .verify 0, ctrlAt .verify 3 booted, ctrlAt .verify 4 booted],
      s.ctrlShell.booted = true ∧ s.ctrl.ready = true ∧ s.ctrlShell.st = .verify)
    ∧ (ctrlAt .verify 1 booted).ctrlShell.step = 1 ∧ (looping .verify 1).ctrlShell.step = 2
    ∧ (looping .verify 1).ctrlShell.idx = (looping .verify 1).ctrlShell.pwlen
    ∧ (looping .verify 0).ctrlShell.idx ≠ (looping .verify 0).ctrlShell.pwlen
    ∧ (ctrlAt .verify 3 booted).ctrlShell.step = 3 ∧ (ctrlAt .verify 4 booted).ctrlShell.step = 4 := by decide

theorem witness_PayloadStepIsReceiveText :
    (∀ st ∈ [CtrlState.setpw, .verify], ∀ q ∈ [[], [(0x00 : Byte)], [0x31]],
      let s := ctrlAt st 0 { booted with rxq := q }
      s.cur = .ctrl ∧ s.ctrlShell.booted = true ∧ s.ctrl.timer.waiting = false ∧ s.ctrlShell.step = 0
      ∧ s.ctrlShell.st = st ∧ (after (fun _ => true) (exec .receiveText s)) = some true)
    ∧ (let s := ctrlAt .setpw 0 (receiving [1, 2, 3, 4, 5, 6, 7, 8, 9] [0x30]).ctrl;
      s.cur = .ctrl ∧ s.ctrlShell.booted = true ∧ s.ctrl.timer.waiting = false ∧ s.ctrlShell.step = 0)
    ∧ exec .receiveText (ctrlAt .setpw 0 (receiving [1, 2, 3, 4, 5, 6, 7, 8, 9] [0x30]).ctrl) = .fault (.bufferOverflow 0x30) :=
  ⟨by decide, by decide, rfl⟩

theorem witness_OpenRunsTheActuationSequence :
    (∀ k ∈ [0#5, 1, 2, 3, 4, 5, 6, 7, 8], let s := ctrlAt .open k booted
      s.ctrlShell.booted = true ∧ s.ctrl.timer.waiting = false ∧ s.ctrlShell.st = .open ∧ s.ctrlShell.step = k
      ∧ s.ctrl.act = .idle ∧ s.ctrl.timer.ticks = 0)
    ∧ ∀ k ∈ [1#5, 3, 4, 5, 7], let s := ctrlAt .open k { booted with act := .inWait }
      s.ctrlShell.booted = true ∧ s.ctrl.timer.waiting = false ∧ s.ctrlShell.st = .open ∧ s.ctrlShell.step = k
      ∧ s.ctrl.act = .inWait := by decide

theorem witness_LockHoldsTheAlarm :
    (∀ k ∈ [0#5, 1, 2, 3, 4, 5], let s := ctrlAt .lock k booted
      s.ctrlShell.booted = true ∧ s.ctrl.timer.waiting = false ∧ s.ctrlShell.st = .lock ∧ s.ctrlShell.step = k
      ∧ s.ctrl.act = .idle ∧ s.ctrl.timer.ticks = 0)
    ∧ ∀ k ∈ [1#5, 2, 3, 4], let s := ctrlAt .lock k { booted with act := .inWait }
      s.ctrlShell.booted = true ∧ s.ctrl.timer.waiting = false ∧ s.ctrlShell.st = .lock ∧ s.ctrlShell.step = k
      ∧ s.ctrl.act = .inWait := by decide

/-- The control unit with bytes waiting and so many turns of its foreground ahead. -/
def serving (q : List Byte) (n : Nat) : State := { queued q with agenda := List.replicate n (.fg .ctrl) }

theorem witness_SetpwFrameStoresThePassword :
    ∀ text ∈ [[], [0x31, 0x32, 0x33, 0x34, 0x35, 0x36, 0x37, 0x38, (0x39 : Byte)]],
      let s := serving (0x30 :: (text ++ 0x00 :: [0x32])) (2 * text.length + 5)
      s.params.wf = true ∧ s.ctrl.fore = .shell ∧ s.ctrl.port = [] ∧ s.ctrlShell.booted = true ∧ s.ctrl.ready = true
      ∧ s.ctrlShell.st = .wait ∧ s.ctrlShell.step = 0 ∧ text.length ≤ 9 ∧ (∀ b ∈ text, b ≠ 0x00)
      ∧ s.ctrl.rxq = 0x30 :: (text ++ 0x00 :: [0x32]) ∧ s.agenda = List.replicate (2 * text.length + 5) (.fg .ctrl) := by decide

theorem witness_VerifyFrameIsAnsweredByTheVerdict :
    ∀ text ∈ [[], [0x31, 0x32, 0x33, 0x34, 0x35, 0x36, 0x37, 0x38, (0x39 : Byte)]],
      let u := serving (0x31 :: (text ++ 0x00 :: [])) (text.length + 9 + 6)
      let s := { u with ctrlShell := { u.ctrlShell with pwlen := 9 } }
      s.ctrl.fore = .shell ∧ s.ctrl.port = [] ∧ s.ctrlShell.booted = true ∧ s.ctrl.ready = true
      ∧ s.ctrlShell.st = .wait ∧ s.ctrlShell.step = 0 ∧ s.ctrlShell.pwlen.toNat ≤ 9 ∧ text.length ≤ 9 ∧ (∀ b ∈ text, b ≠ 0x00)
      ∧ s.ctrl.rxq = 0x31 :: (text ++ 0x00 :: [])
      ∧ s.agenda = List.replicate (text.length + s.ctrlShell.pwlen.toNat + 6) (.fg .ctrl) := by decide

theorem witness_SetThenVerifyAnswersEquality :
    ∀ cand ∈ [[], [0x31, (0x32 : Byte)], [0x31, 0x33]],
      let pw : List Byte := [0x31, 0x32]
      let s := serving (0x30 :: (pw ++ 0x00 :: 0x31 :: (cand ++ 0x00 :: []))) (3 * pw.length + cand.length + 11)
      s.params.wf = true ∧ s.ctrl.fore = .shell ∧ s.ctrl.port = [] ∧ s.ctrlShell.booted = true ∧ s.ctrl.ready = true
      ∧ s.ctrlShell.st = .wait ∧ s.ctrlShell.step = 0 ∧ pw.length ≤ 9 ∧ (∀ b ∈ pw, b ≠ 0x00) ∧ cand.length ≤ 9
      ∧ (∀ b ∈ cand, b ≠ 0x00) ∧ s.ctrl.rxq = 0x30 :: (pw ++ 0x00 :: 0x31 :: (cand ++ 0x00 :: []))
      ∧ s.agenda = List.replicate (3 * pw.length + cand.length + 11) (.fg .ctrl) := by decide

theorem witness_OnlySetpwWritesTheStore :
    after (fun t => decide (t.store ≠ (looping .setpw 0).store)) (step (looping .setpw 0)) = some true := by decide

theorem witness_ControlUnitSendsOnlyVerdicts :
    let s := ctrlAt .verify 4 booted
    s.agenda = [.fg .ctrl] ∧ s.ctrl.fore = .shell ∧ s.ctrl.port = []
    ∧ after (fun t => decide (t.hmi.rxq ≠ s.hmi.rxq)) (step s) = some true := by decide

/-! ### The HMI shell -/

/-- `hmiAt` with the trials left and the action chosen. -/
def deciding (trials : BitVec 2) (a : Action) (resp : Byte) : State :=
  let s := hmiAt .verify 7 booted
  { s with hmiShell := { s.hmiShell with trials := trials, action := a, resp := resp } }

theorem witness_MatchGrantsTheChosenAction :
    (∀ s ∈ [hmiAt .verify 4 { booted with rxq := [0x31] }, hmiAt .verify 5 booted, hmiAt .verify 6 booted,
        hmiAt .verify 6 { booted with act := .inWait }, deciding 3 .open 0x31, deciding 1 .change 0x31],
      s.hmiShell.booted = true ∧ s.hmi.timer.waiting = false ∧ s.hmiShell.st = .verify)
    ∧ (hmiAt .verify 4 { booted with rxq := [0x31] }).hmiShell.step = 4
    ∧ (hmiAt .verify 4 { booted with rxq := [0x31] }).hmi.rxq = 0x31 :: []
    ∧ (hmiAt .verify 5 booted).hmiShell.step = 5 ∧ (hmiAt .verify 6 booted).hmiShell.step = 6
    ∧ (hmiAt .verify 6 booted).hmi.act = .idle ∧ (hmiAt .verify 6 booted).hmi.timer.ticks = 0
    ∧ (hmiAt .verify 6 { booted with act := .inWait }).hmi.act = .inWait
    ∧ (deciding 3 .open 0x31).hmiShell.step = 7 ∧ (deciding 3 .open 0x31).hmiShell.action = .open
    ∧ (deciding 1 .change 0x31).hmiShell.action = .change := by decide

theorem witness_NomatchSpendsATrial :
    (∀ s ∈ [hmiAt .verify 4 { booted with rxq := [0x58] }, hmiAt .verify 5 booted, hmiAt .verify 6 booted,
        hmiAt .verify 6 { booted with act := .inWait }, deciding 1 .open 0x30, deciding 2 .open 0x58, deciding 3 .open 0x30],
      s.hmiShell.booted = true ∧ s.hmi.timer.waiting = false ∧ s.hmiShell.st = .verify)
    ∧ (hmiAt .verify 4 { booted with rxq := [0x58] }).hmi.rxq = 0x58 :: [] ∧ (0x58 : Byte) ≠ 0x31
    ∧ (∀ n ∈ [1#2, 2, 3], (deciding n .open 0x30).hmiShell.step = 7 ∧ (deciding n .open 0x30).hmiShell.trials = n) := by decide

/-- `hmiAt` with a key answered. -/
def keyed (st : HmiState) (k : BitVec 5) (b : Block) (key : Option Byte) : State := { hmiAt st k b with key := key }

theorem keyed_turn (st : HmiState) (k : BitVec 5) (b : Block) (key : Option Byte) (h1 : b.fore = .shell) (h2 : b.port = [])
    (h3 : b.timer.waiting = false) : ShellTurn (keyed st k b key) .hmi [] := ⟨rfl, h1, h2, rfl, h3⟩

theorem witness_MenuKeyStartsAnAccessRequest :
    (∀ key ∈ [none, some 0x2B, some 0x2D, some (0x0D : Byte)],
      ShellTurn (keyed .choice 0 booted key) .hmi [] ∧ (keyed .choice 0 booted key).hmiShell.st = .choice
      ∧ (keyed .choice 0 booted key).hmiShell.step = 0 ∧ (keyed .choice 0 booted key).key = key)
    ∧ params.keyOpen = 0x2B ∧ params.keyChange = 0x2D ∧ params.keyChange ≠ params.keyOpen :=
  ⟨fun key _ => ⟨keyed_turn _ _ _ _ rfl rfl rfl, rfl, rfl, rfl⟩, rfl, rfl, by decide⟩

/-- The captures' places (rules R226, R230). -/
def capturePlaces : List (HmiState × BitVec 5) := [(.verify, 0), (.setting, 0), (.setting, 1)]

theorem witness_CaptureBeginsWithPromptAndEmptyText :
    ∀ p ∈ capturePlaces, let s := keyed p.1 p.2 booted none
      ShellTurn s .hmi [] ∧ s.hmi.act = .idle ∧ s.hmiShell.st = p.1 ∧ s.hmiShell.step = p.2 :=
  fun _ _ => ⟨keyed_turn _ _ _ _ rfl rfl rfl, rfl, rfl, rfl⟩

/-- An instance inside a capture, both buffers holding a text. -/
def capturing (t : List Byte) : Block := { booted with act := .inCapture, pbuf := textOf t, xbuf := textOf t }

theorem witness_CaptureTakesOneKeyAStep :
    (∀ p ∈ capturePlaces, ∀ t : List Byte, ∀ key : Option Byte, let s := keyed p.1 p.2 (capturing t) key
      ShellTurn s .hmi [] ∧ s.hmi.act = .inCapture ∧ s.hmiShell.st = p.1 ∧ s.hmiShell.step = p.2 ∧ s.key = key)
    ∧ (capturing [1, 2, 3, 4, 5, 6, 7, 8]).pbuf.len.toNat < 9 ∧ (capturing [1, 2, 3, 4, 5, 6, 7, 8]).xbuf.len.toNat < 9
    ∧ (capturing [1, 2, 3, 4, 5, 6, 7, 8, 9]).pbuf.len = 9 ∧ (capturing [1, 2, 3, 4, 5, 6, 7, 8, 9]).xbuf.len = 9
    ∧ (0x00 : Byte) ≠ 13 :=
  ⟨fun _ _ _ _ => ⟨keyed_turn _ _ _ _ rfl rfl rfl, rfl, rfl, rfl, rfl⟩, by decide, by decide, by decide, by decide, by decide⟩

theorem witness_SetupComparesTheTwoEntries :
    (∀ x : List Byte, let s := keyed .setting 2 { booted with pbuf := textOf [0x31], xbuf := textOf x } none
      ShellTurn s .hmi [] ∧ s.hmiShell.st = .setting ∧ s.hmiShell.step = 2)
    ∧ (textOf [0x31]).len = (textOf [0x31]).len ∧ (∀ i < (textOf [0x31]).len.toNat, (textOf [0x31]).byte i = (textOf [0x31]).byte i)
    ∧ (textOf [0x31]).len ≠ (textOf [0x31, 0x32]).len ∧ ¬(∀ i < (textOf [0x31]).len.toNat, (textOf [0x31]).byte i = (textOf [0x33]).byte i) :=
  ⟨fun _ => ⟨keyed_turn _ _ _ _ rfl rfl rfl, rfl, rfl⟩, rfl, fun _ _ => rfl, by decide, by decide⟩

/-- The rows that send a byte, send the text or show (rules R222, R226, R228, R229, R230). -/
def sendShowRows : List (HmiState × BitVec 5) :=
  [(.verify, 1), (.locked, 0), (.opening, 0), (.setting, 4), (.verify, 2), (.setting, 5), (.idle, 0), (.locked, 1), (.opening, 1),
    (.opening, 3), (.opening, 5), (.opening, 7), (.opening, 9), (.setting, 6)]

/-- The rows that wait (rules R226, R228, R229, R230). -/
def delayRows : List (HmiState × BitVec 5) :=
  [(.verify, 3), (.locked, 2), (.locked, 3), (.locked, 4), (.locked, 5), (.opening, 2), (.opening, 4), (.opening, 6), (.opening, 8),
    (.opening, 10), (.setting, 3), (.setting, 7)]

theorem witness_HmiRowsSendAndShow :
    ∀ p ∈ sendShowRows, let s := keyed p.1 p.2 booted none
      ShellTurn s .hmi [] ∧ s.hmi.act = .idle ∧ s.hmiShell.st = p.1 ∧ s.hmiShell.step = p.2 :=
  fun _ _ => ⟨keyed_turn _ _ _ _ rfl rfl rfl, rfl, rfl, rfl⟩

theorem witness_HmiRowsTakeTheirDelays :
    (∀ p ∈ delayRows, let s := keyed p.1 p.2 booted none
      ShellTurn s .hmi [] ∧ s.hmiShell.st = p.1 ∧ s.hmiShell.step = p.2 ∧ s.hmi.act = .idle ∧ s.hmi.timer.ticks = 0)
    ∧ ∀ p ∈ delayRows, let s := keyed p.1 p.2 { booted with act := .inWait } none
      ShellTurn s .hmi [] ∧ s.hmiShell.st = p.1 ∧ s.hmiShell.step = p.2 ∧ s.hmi.act = .inWait :=
  ⟨fun _ _ => ⟨keyed_turn _ _ _ _ rfl rfl rfl, rfl, rfl, rfl, rfl⟩, fun _ _ => ⟨keyed_turn _ _ _ _ rfl rfl rfl, rfl, rfl, rfl⟩⟩

theorem booted_block_inv : booted.Inv := ⟨booted_inv, by decide, by decide, nofun, fun _ => rfl⟩

theorem deciding_inv {n : BitVec 2} (h : n ≠ 0) (a : Action) (r : Byte) : (deciding n a r).Inv where
  params := show params.wf = true by decide
  hmi := booted_block_inv
  ctrl := booted_block_inv
  hmiShell := ⟨show 7 ≤ 7 by decide, fun _ => ⟨rfl, rfl⟩, nofun, fun _ => h⟩
  ctrlShell := ⟨show 0 ≤ 0 by decide, fun _ => ⟨rfl, rfl⟩, nofun, show 0 ≤ 9 by decide, nofun, nofun, rfl, rfl⟩
  store := List.Pairwise.nil
  region := nofun

/-- The rows H_VERIFY 2 and H_SETTING 5 send the text of `PBUF` and move on with the terminator (rules R226, R230). -/
theorem test_hmi_text_rows :
    (∀ p ∈ [(HmiState.verify, 2#5), (.setting, 5)], let b := { booted with pbuf := textOf [0x31], xbuf := textOf [0x32] }
      after (fun t => (t.ctrl.rxq, t.hmiShell.step)) (step (hmiAt p.1 p.2 b)) = some ([0x31], p.2)
      ∧ after (fun t => (t.ctrl.rxq, t.hmiShell.step)) (step (hmiAt p.1 p.2 { b with act := .inSendText .pbuf 1 })) = some ([0x00], p.2 + 1)) := by
  decide

/-- The decisions that open the door, change the password, lock the system and spend a trial. -/
theorem witness_AccessOnlyByMatchLockoutOnlyByTrials :
    ((deciding 3 .open 0x31).Inv ∧ (deciding 3 .change 0x31).Inv ∧ (deciding 1 .open 0x30).Inv ∧ (deciding 3 .open 0x30).Inv)
    ∧ after (·.hmiShell.st) (step (deciding 3 .open 0x31)) = some .opening
    ∧ after (fun t => (t.hmiShell.st, t.hmiShell.booted)) (step (deciding 3 .change 0x31)) = some (.setting, true)
    ∧ after (·.hmiShell.st) (step (deciding 1 .open 0x30)) = some .locked
    ∧ after (·.hmiShell.trials) (step (deciding 3 .open 0x30)) = some 2 :=
  ⟨⟨deciding_inv (by decide) _ _, deciding_inv (by decide) _ _, deciding_inv (by decide) _ _, deciding_inv (by decide) _ _⟩,
    by decide, by decide, by decide, by decide⟩

/-- A key is next. -/
def keyNext (s : State) : State := { s with agenda := [.key 0x31] }

/-- Open calls, open calls already answered, and places with no call. -/
theorem witness_KeysAreSeenOnlyByAnOpenCall :
    let called (s : State) : Prop := s.hmi.fore = .shell ∧ s.hmiShell.booted = true ∧ s.hmi.timer.waiting = false
      ∧ ((s.hmiShell.st = .choice ∧ s.hmiShell.step = 0) ∨ s.hmi.act = .inCapture)
    (∀ s ∈ [keyNext (hmiAt .choice 0 booted), keyNext (hmiAt .setting 0 (capturing []))],
      s.agenda = .key 0x31 :: [] ∧ called s ∧ s.key = none ∧ called { s with key := some 0x0D })
    ∧ ∀ s ∈ [keyNext (hmiAt .locked 2 booted), keyNext (hmiAt .setting 0 booted), keyNext (hmiAt .choice 0 { booted with fore := .firmware })],
      s.agenda = .key 0x31 :: [] ∧ ¬called s := by decide

/-! ### The machine -/

theorem witness_StepRunsTheDecodedInstruction :
    (crossing.agenda = .fg .hmi :: [.fg .hmi, .fg .hmi, .fg .ctrl, .fg .ctrl, .fg .ctrl]
      ∧ (crossing.timer .hmi).waiting = false ∧ (crossing.block .hmi).port = 0xA00000000000#48 :: [])
    ∧ (∀ st, ShellTurn (ctrlAt st 0 { booted with rxq := [0x33] }) .ctrl [] ∧ (ctrlAt st 0 { booted with rxq := [0x33] }).ctrlShell.st = st
      ∧ (ctrlAt st 0 { booted with rxq := [0x33] }).ctrl.rxq = 0x33 :: [])
    ∧ (ShellTurn (ctrlAt .wait 0 { booted with rxq := [] }) .ctrl [] ∧ (ctrlAt .wait 0 { booted with rxq := [] }).ctrl.rxq = [])
    ∧ (∀ k, ∀ q, ShellTurn (keyed .verify k { booted with rxq := q } none) .hmi []
      ∧ (keyed .verify k { booted with rxq := q } none).hmiShell.st = .verify
      ∧ (keyed .verify k { booted with rxq := q } none).hmiShell.step = k
      ∧ (keyed .verify k { booted with rxq := q } none).hmi.rxq = q) :=
  ⟨⟨rfl, rfl, rfl⟩, fun _ => ⟨ctrl_turn _ _ _, rfl, rfl⟩, ⟨ctrl_turn _ _ _, rfl⟩,
    fun _ _ => ⟨keyed_turn _ _ _ _ rfl rfl rfl, rfl, rfl, rfl⟩⟩

theorem witness_BootRegistersTheCallback :
    ∀ r, let s := { State.reset with agenda := [Event.fg r] }
      s.agenda = .fg r :: [] ∧ (s.block r).fore = .shell ∧ (s.block r).port = [] ∧ (s.block r).ready = true ∧ s.booted r = false := by
  intro r
  cases r <;> exact ⟨rfl, rfl, rfl, rfl, rfl⟩

theorem witness_ResetOfOneUnit :
    (waitingThen (.reset .ctrl .shell)).agenda = .reset .ctrl .shell :: []
    ∧ (waitingThen (.reset .hmi .firmware)).agenda = .reset .hmi .firmware :: [] := ⟨rfl, rfl⟩

theorem witness_StepsKeepTheTimerInvariants :
    (∀ r, ((waitingThen (.clk .ctrl)).timer r).Inv) ∧ ∃ t, step (waitingThen (.clk .ctrl)) = .next t :=
  ⟨fun r => by cases r; exacts [booted_inv, waiting_inv], _, rfl⟩

theorem witness_StepsKeepTheSystemInvariants :
    (deciding 3 .open 0x30).Inv ∧ ∃ t, step (deciding 3 .open 0x30) = .next t :=
  ⟨deciding_inv (by decide) _ _, _, rfl⟩

end Sys2Proof.Tests
end

section
/-! PROOFS. What a foreground can do to a Tick Timer group, said once for every operation, shell step and instruction; and from it
that every step of the machine keeps the timer invariants of both units (rule R33). -/

namespace Sys2Proof.Machine

/-! ## What a foreground writes in a timer group -/

/-- All that a transition of a foreground can do to a Tick Timer group: nothing, or the writes of a Tick Timer operation where that
operation is enabled (rules R131 to R134). -/
inductive Timer.ForegroundMove (t : Timer) : Timer → Prop where
  | same : t.ForegroundMove t
  | arm (hw : t.waiting = false) (a b : Count) {ps : Psel} (m : TimerMode) {p : Nat} (hp : divisor ps = some p) :
      t.ForegroundMove (t.arm a b ps m)
  | register : t.ForegroundMove { t with cb := .tickInc }
  | disable (hw : t.waiting = false) : t.ForegroundMove t.clearFlags
  | beginWait (hw : t.waiting = false) (ht : t.ticks = 0) (n : Tick) (a b : Count) {ps : Psel} (m : TimerMode) {p : Nat}
      (hp : divisor ps = some p) : t.ForegroundMove (t.beginWait n a b ps m)

theorem Timer.ForegroundMove.inv {t u : Timer} (h : t.ForegroundMove u) (hi : t.Inv) : u.Inv := by
  cases h with
  | same => exact hi
  | arm hw a b m hp => exact Timer.arm_inv hw a b m hp
  | register => exact ⟨hi.runIe, hi.waitRuns, hi.pendingRuns, hi.runPsel, hi.runPdiv⟩
  | disable hw => exact Timer.clearFlags_inv hw
  | beginWait hw ht n a b m hp => exact Timer.beginWait_inv hw ht n a b m hp

/-! ## The timer groups of a state -/

theorem State.setBlock_timer (s : State) (r : Role) (b : Block) :
    (s.setBlock r b).timer = Function.update s.timer r b.timer := by
  funext q
  cases r <;> cases q <;> rfl

theorem State.resetUnit_timer (s : State) (r : Role) (f : Foreground) :
    (s.resetUnit r f).timer = Function.update s.timer r Timer.reset := by
  funext q
  cases r <;> cases q <;> rfl

theorem State.setBlock_timer_of_eq (s : State) (r : Role) {b : Block} (h : b.timer = s.timer r) :
    (s.setBlock r b).timer = s.timer := by
  rw [State.setBlock_timer, h, Function.update_eq_self]

theorem State.setBooted_timer (s : State) (r : Role) : (s.setBooted r).timer = s.timer := by cases r <;> rfl

theorem Block.setText_timer (b : Block) (buf : BufSel) (t : Text) : (b.setText buf t).timer = b.timer := by cases buf <;> rfl

theorem State.timer_eq_of_blocks {s t : State} (hh : t.hmi.timer = s.hmi.timer) (hc : t.ctrl.timer = s.ctrl.timer) :
    t.timer = s.timer := by
  funext q
  cases q
  · exact hh
  · exact hc

/-- A move of one unit's timer group is one of every unit's: the other stands still. -/
theorem Timer.ForegroundMove.setBlock {s : State} {r : Role} {b : Block} (h : (s.timer r).ForegroundMove b.timer) :
    ∀ q, (s.timer q).ForegroundMove ((s.setBlock r b).timer q) := by
  rw [State.setBlock_timer]
  exact (Function.forall_update_iff _ fun q u => (s.timer q).ForegroundMove u).2 ⟨h, fun _ _ => .same⟩

/-! ## The outcomes of a foreground's transitions -/

/-- The next state of this outcome, where it has one, is reached from `s` by foreground moves of both units' timer groups. -/
def ForegroundResult (s : State) (o : Result) : Prop := ∀ t, o = .next t → ∀ q, (s.timer q).ForegroundMove (t.timer q)

namespace ForegroundResult

theorem of_timer_eq {s : State} {o : Result} (h : ∀ t, o = .next t → t.timer = s.timer) : ForegroundResult s o := by
  intro t ht q
  rw [h t ht]
  exact .same

theorem next {s t : State} (h : t.timer = s.timer) : ForegroundResult s (.next t) := of_timer_eq fun _ e => by cases e; exact h

theorem refuse (s : State) (e : Refusal) : ForegroundResult s (.refused e) := fun _ h => by cases h

theorem fail (s : State) (e : Fault) : ForegroundResult s (.fault e) := fun _ h => by cases h

theorem afterOp {r : Role} {adv : State → State} {s : State} {o : Result} (h : ForegroundResult s o)
    (ha : ∀ u, (adv u).timer = u.timer) : ForegroundResult s (Machine.afterOp r adv o) := by
  intro t ht
  obtain ⟨u, hu, rfl⟩ := afterOp_next ht
  split
  · rw [ha]
    exact h u hu
  · exact h u hu

theorem finishPort {r : Role} {s : State} {o : Result} (h : ForegroundResult s o) :
    ForegroundResult s (Machine.finishPort r o) := by
  intro t ht
  obtain ⟨u, hu, rfl⟩ := finishPort_next ht
  rw [State.setBlock_timer_of_eq u r (Block.finishPort_timer _)]
  exact h u hu

theorem congr {s s' : State} {o : Result} (h : ForegroundResult s o) (e : s.timer = s'.timer) : ForegroundResult s' o := by
  intro t ht
  rw [← e]
  exact h t ht

end ForegroundResult

/-! ## Host operations -/

theorem opConfigure_foreground (r : Role) (a b : Count) (ps : Psel) (m : TimerMode) (s : State) :
    ForegroundResult s (opConfigure r a b ps m s) := by
  intro t h
  rcases opConfigure_next h with rfl | ⟨hr, ⟨p, hp⟩, rfl⟩
  · exact fun _ => .same
  · exact Timer.ForegroundMove.setBlock (.arm ((Block.ready_iff _).1 hr).1 a b m hp)

theorem opRegisterCallback_foreground (r : Role) (fn : Byte) (s : State) : ForegroundResult s (opRegisterCallback r fn s) := by
  intro t h
  rcases opRegisterCallback_next h with rfl | ⟨-, rfl⟩
  · exact fun _ => .same
  · exact Timer.ForegroundMove.setBlock .register

theorem opDisable_foreground (r : Role) (s : State) : ForegroundResult s (opDisable r s) := by
  intro t h
  rcases opDisable_next h with rfl | ⟨hr, rfl⟩
  · exact fun _ => .same
  · exact Timer.ForegroundMove.setBlock (.disable ((Block.ready_iff _).1 hr).1)

theorem opWaitTicks_foreground (r : Role) (n : Tick) (a b : Count) (ps : Psel) (m : TimerMode) (s : State) :
    ForegroundResult s (opWaitTicks r n a b ps m s) := by
  intro t h
  rcases opWaitTicks_next h with rfl | ⟨-, -, rfl⟩ | ⟨hr, ht, ⟨p, hp⟩, rfl⟩
  · exact fun _ => .same
  · exact Timer.ForegroundMove.setBlock .same
  · exact Timer.ForegroundMove.setBlock (.beginWait ((Block.ready_iff _).1 hr).1 ht n a b m hp)

theorem opDelay1s_foreground (r : Role) (s : State) : ForegroundResult s (opDelay1s r s) := opWaitTicks_foreground r _ _ _ _ _ s

theorem opDelay15s_foreground (r : Role) (s : State) : ForegroundResult s (opDelay15s r s) := opWaitTicks_foreground r _ _ _ _ _ s

theorem opSendByte_foreground (r : Role) (b : Byte) (s : State) : ForegroundResult s (opSendByte r b s) := by
  refine .of_timer_eq fun t h => ?_
  rcases opSendByte_next h with rfl | ⟨-, rfl⟩
  · rfl
  · exact State.setBlock_timer_of_eq _ _ rfl

theorem opReceiveByte_foreground (r : Role) (s : State) : ForegroundResult s (opReceiveByte r s) := by
  refine .of_timer_eq fun t h => ?_
  rcases opReceiveByte_next h with rfl | ⟨-, -, rfl⟩ | ⟨-, _, _, -, rfl⟩
  · rfl
  · exact State.setBlock_timer_of_eq _ _ rfl
  · exact State.setBlock_timer_of_eq _ _ rfl

theorem opSendText_foreground (r : Role) (buf : BufSel) (s : State) : ForegroundResult s (opSendText r buf s) := by
  refine .of_timer_eq fun t h => ?_
  rcases opSendText_next h with rfl | ⟨-, a, c, rfl⟩
  · rfl
  · calc _ = (s.setBlock r { s.block r with act := a }).timer := State.setBlock_timer_of_eq _ _ (by simp)
      _ = s.timer := State.setBlock_timer_of_eq _ _ rfl

theorem receiveTextByte_foreground (r : Role) (s : State) : ForegroundResult s (receiveTextByte r s) := by
  refine .of_timer_eq fun t h => ?_
  rcases receiveTextByte_next h with ⟨rfl, -⟩ | ⟨_, -, rfl⟩ | ⟨_, _, _, -, -, -, rfl⟩
  · rfl
  · exact State.setBlock_timer_of_eq _ _ rfl
  · exact State.setBlock_timer_of_eq _ _ rfl

theorem opReceiveText_foreground (r : Role) (s : State) : ForegroundResult s (opReceiveText r s) := by
  intro t h
  rcases opReceiveText_next h with rfl | ⟨-, -, h⟩ | ⟨-, h⟩
  · exact fun _ => .same
  · exact receiveTextByte_foreground r s t h
  · refine (receiveTextByte_foreground r _).congr ?_ t h
    exact State.setBlock_timer_of_eq s r rfl

/-! ## The control unit's shell -/

theorem dispatch_foreground (st : CtrlState) (s : State) : ForegroundResult s (dispatch st s) := by
  unfold dispatch
  split
  · exact .next rfl
  · exact .next (State.timer_eq_of_blocks rfl rfl)

theorem setpwStep_foreground (s : State) : ForegroundResult s (setpwStep s) := by
  unfold setpwStep
  split
  · exact (opReceiveText_foreground _ _).afterOp fun _ => rfl
  · exact .next rfl
  · dsimp only
    split <;> exact .next rfl
  · exact .next rfl
  · exact .next rfl

theorem verifyStep_foreground (s : State) : ForegroundResult s (verifyStep s) := by
  unfold verifyStep
  split
  · exact (opReceiveText_foreground _ _).afterOp fun _ => rfl
  · exact .next rfl
  · dsimp only
    split
    · exact .next rfl
    · exact .next (State.timer_eq_of_blocks rfl rfl)
  · exact .next (State.timer_eq_of_blocks rfl rfl)
  · exact (opSendByte_foreground _ _ _).afterOp fun _ => rfl
  · exact .next rfl

theorem openStep_foreground (s : State) : ForegroundResult s (openStep s) := by
  unfold openStep
  split
  case h_2 | h_8 => exact (opDelay15s_foreground _ _).afterOp fun _ => rfl
  case h_4 | h_5 | h_6 => exact (opDelay1s_foreground _ _).afterOp fun _ => rfl
  all_goals exact .next rfl

theorem lockStep_foreground (s : State) : ForegroundResult s (lockStep s) := by
  unfold lockStep
  split
  case h_2 | h_3 | h_4 | h_5 => exact (opDelay15s_foreground _ _).afterOp fun _ => rfl
  all_goals exact .next rfl

theorem commandStep_foreground (st : CtrlState) {own : State → Result} {s : State} (ho : ForegroundResult s (own s)) :
    ForegroundResult s (commandStep st own s) := by
  unfold commandStep
  split
  · split
    · split
      · exact dispatch_foreground st s
      · exact .next rfl
    · split
      · exact ho
      · exact .next rfl
  · exact .next rfl

/-! ## The HMI unit's shell -/

theorem decideMatch_timer (s : State) : (decideMatch s).timer = s.timer := by
  unfold decideMatch
  split <;> rfl

theorem decideFail_timer (s : State) : (decideFail s).timer = s.timer := by
  unfold decideFail
  dsimp only
  split_ifs <;> rfl

theorem takeResponse_foreground (b : Byte) (s : State) : ForegroundResult s (takeResponse b s) := by
  unfold takeResponse
  split
  · exact .next rfl
  · exact .next (State.timer_eq_of_blocks rfl rfl)

theorem responseStep_foreground (b : Byte) (msg : DispMsg) {decision : State → State} {s : State}
    (hd : (decision s).timer = s.timer) : ForegroundResult s (responseStep b msg decision s) := by
  unfold responseStep
  split
  · split
    · exact takeResponse_foreground b s
    · exact .next rfl
    · exact (opDelay1s_foreground _ _).afterOp fun _ => rfl
    · exact .next hd
    · exact .next rfl
  · exact .next rfl

theorem choiceStep_foreground (s : State) : ForegroundResult s (choiceStep s) := by
  unfold choiceStep
  split
  · exact .next rfl
  · dsimp only
    split
    · exact .next rfl
    · split <;> exact .next rfl

theorem captureStep_foreground (buf : BufSel) (prompt : DispMsg) {adv : State → State} (s : State)
    (ha : ∀ u, (adv u).timer = u.timer) : ForegroundResult s (captureStep buf prompt adv s) := by
  unfold captureStep
  dsimp only
  split
  · exact .next (State.timer_eq_of_blocks (Block.setText_timer _ _ _) rfl)
  · split
    · exact .next rfl
    · split
      · exact .next ((ha _).trans (State.timer_eq_of_blocks (Block.setText_timer _ _ _) rfl))
      · split
        · exact .fail _ _
        · exact .next (State.timer_eq_of_blocks (Block.setText_timer _ _ _) rfl)
  all_goals exact .next rfl

/-- The cases are the rows of the step tables in the order of `hmiShellStep`: those that wait for a key, those that issue an
operation, the comparison, and those that only show a message or move on. -/
theorem hmiShellStep_foreground (s : State) : ForegroundResult s (hmiShellStep s) := by
  unfold hmiShellStep
  split
  case h_2 => exact choiceStep_foreground s
  case h_3 | h_24 | h_25 => exact captureStep_foreground _ _ s fun _ => rfl
  case h_4 | h_7 | h_13 | h_28 => exact (opSendByte_foreground _ _ _).afterOp fun _ => rfl
  case h_5 | h_29 => exact (opSendText_foreground _ _ _).afterOp fun _ => rfl
  case h_6 | h_17 | h_19 | h_21 | h_27 | h_31 => exact (opDelay1s_foreground _ _).afterOp fun _ => rfl
  case h_9 | h_10 | h_11 | h_12 | h_15 | h_23 => exact (opDelay15s_foreground _ _).afterOp fun _ => rfl
  case h_26 => split <;> exact .next rfl
  all_goals exact .next rfl

/-! ## Every instruction and every turn -/

theorem runExpansion_foreground {r : Role} (i : Instr) {first : State → Result} (hf : ∀ u, ForegroundResult u (first u))
    (s : State) : ForegroundResult s (runExpansion r i first s) := by
  unfold runExpansion
  split
  · have hp : (s.presentFirst r (opWords (expand i))).timer = s.timer := State.setBlock_timer_of_eq s r rfl
    exact ((hf _).congr hp).finishPort
  · exact .next rfl

theorem exec_foreground (i : Instr) (s : State) : ForegroundResult s (exec i s) := by
  cases i with
  | configure a b ps m => exact opConfigure_foreground _ a b ps m s
  | registerCallback fn => exact opRegisterCallback_foreground _ fn s
  | disable => exact opDisable_foreground _ s
  | waitTicks n a b ps m => exact opWaitTicks_foreground _ n a b ps m s
  | sendByte b => exact opSendByte_foreground _ b s
  | receiveByte => exact opReceiveByte_foreground _ s
  | sendText buf => exact opSendText_foreground _ buf s
  | receiveText => exact opReceiveText_foreground _ s
  | cmdSetpw => exact commandStep_foreground _ (setpwStep_foreground s)
  | cmdVerify => exact commandStep_foreground _ (verifyStep_foreground s)
  | cmdOpen => exact commandStep_foreground _ (openStep_foreground s)
  | cmdLock => exact commandStep_foreground _ (lockStep_foreground s)
  | cmdIgnored b =>
    show ForegroundResult s (if _ then _ else _)
    split
    · exact dispatch_foreground _ s
    · exact .next rfl
  | rspMatch => exact responseStep_foreground _ _ (decideMatch_timer s)
  | rspNomatch b => exact responseStep_foreground b _ (decideFail_timer s)
  | delay1s => exact opDelay1s_foreground _ s
  | delay15s => exact opDelay15s_foreground _ s
  | delay60s => exact runExpansion_foreground _ (opDelay15s_foreground _) s
  | delay3s => exact runExpansion_foreground _ (opDelay1s_foreground _) s
  | sendFrame op buf => exact runExpansion_foreground _ (opSendByte_foreground _ op) s
  | _ => exact .refuse s _

theorem shellStep_foreground (r : Role) (s : State) : ForegroundResult s (shellStep r s) := by
  unfold shellStep
  split <;> split
  · exact exec_foreground _ s
  · exact .next rfl
  · exact exec_foreground _ s
  · exact hmiShellStep_foreground s

theorem bootStep_foreground (r : Role) (s : State) : ForegroundResult s (bootStep r s) := by
  unfold bootStep
  split
  · exact (opRegisterCallback_foreground r _ s).afterOp fun u => u.setBooted_timer r
  · exact .next rfl

/-- A turn of either foreground does to each unit's timer group no more than a Tick Timer operation does. -/
theorem foregroundStep_foreground (r : Role) (s : State) : ForegroundResult s (foregroundStep r s) := by
  unfold foregroundStep
  split
  · exact .next rfl
  · split
    · exact (exec_foreground _ s).finishPort
    · split
      · exact .next rfl
      · split
        · exact shellStep_foreground r s
        · exact bootStep_foreground r s

/-! ## The invariants of rule R33 -/

theorem ForegroundResult.timers_inv {s t : State} {o : Result} (h : ForegroundResult s o) (ht : o = .next t)
    (hi : ∀ r, (s.timer r).Inv) : ∀ r, (t.timer r).Inv := fun r => (h t ht r).inv (hi r)

theorem update_timers_inv {f : Role → Timer} (hi : ∀ r, (f r).Inv) {t : Timer} (ht : t.Inv) (r : Role) :
    ∀ q, (Function.update f r t q).Inv :=
  (Function.forall_update_iff f fun _ u => u.Inv).2 ⟨ht, fun q _ => hi q⟩

theorem supplyKey_timer (k : Byte) (s : State) : (supplyKey k s).timer = s.timer := by
  unfold supplyKey
  split <;> rfl

theorem presentWord_timer (r : Role) (w : Opw) (s : State) : (presentWord r w s).timer = s.timer := by
  unfold presentWord
  dsimp only
  split
  · exact State.setBlock_timer_of_eq _ _ rfl
  · rfl

/-- Each agent's turn keeps the timer invariants: the foregrounds by their moves, the clock and the handler by theirs, a reset by
the reset values; keys and presented words reach no timer group. -/
theorem takeTurn_timers_inv {e : Event} {s t : State} (h : takeTurn e s = .next t) (hi : ∀ r, (s.timer r).Inv) :
    ∀ r, (t.timer r).Inv := by
  cases e with
  | fg r => exact (foregroundStep_foreground r { s with cur := r }).timers_inv h hi
  | clk r =>
    cases h
    rw [State.setTimer, State.setBlock_timer]
    exact update_timers_inv hi (Timer.clockEvent_inv (hi r)) r
  | irq r =>
    cases h
    rw [State.setTimer, State.setBlock_timer]
    exact update_timers_inv hi (Timer.takeInterrupt_inv (hi r)) r
  | key k =>
    cases h
    rwa [supplyKey_timer]
  | present r w =>
    cases h
    rwa [presentWord_timer]
  | reset r f =>
    cases h
    rw [State.resetUnit_timer]
    exact update_timers_inv hi Timer.reset_inv r

theorem nextTransitionBy_timers_inv {arb : Nat → Event} {s t : State} (h : nextTransitionBy arb s = .next t)
    (hi : ∀ r, (s.timer r).Inv) : ∀ r, (t.timer r).Inv := by
  unfold nextTransitionBy at h
  split at h
  · exact takeTurn_timers_inv h hi
  · exact takeTurn_timers_inv h hi

theorem reset_timers_inv (r : Role) : (State.reset.timer r).Inv := by
  cases r
  · exact Timer.reset_inv
  · exact Timer.reset_inv

/-- Settles O58: the reset values meet the invariants, and every turn an arbiter can give keeps them. -/
theorem stepsKeepTheTimerInvariants : Obligations.StepsKeepTheTimerInvariants :=
  ⟨reset_timers_inv, fun _ _ hi h => nextTransitionBy_timers_inv h hi⟩

end Sys2Proof.Machine
end

section
/-! PROOFS. The cutting of a command frame from the link's bytes (rules R102, R106, R107): where a text ends, which opcodes a text
follows, and from these that a frame's bytes are cut back into the frame. -/

namespace Sys2Proof.Machine

/-! ## The text of a payload -/

@[simp] theorem cutText_terminator (room : Nat) (rest : List Byte) : cutText room (0 :: rest) = .ok ([], rest) := by
  unfold cutText
  exact if_pos rfl

theorem cutText_cons {room : Nat} {b : Byte} {tail text rest : List Byte} (hb : b ≠ 0)
    (h : cutText room tail = .ok (text, rest)) : cutText (room + 1) (b :: tail) = .ok (b :: text, rest) := by
  simp only [cutText, h]
  exact if_neg hb

/-- The text's own bytes are kept as long as there is room for them, and the terminator ends it before anything that follows. -/
theorem cutText_terminated {room : Nat} {text : List Byte} (rest : List Byte) (hlen : text.length ≤ room)
    (hne : ∀ b ∈ text, b ≠ 0) : cutText room (text ++ 0 :: rest) = .ok (text, rest) := by
  induction text generalizing room with
  | nil => exact cutText_terminator room rest
  | cons b text ih =>
    obtain ⟨hb, htext⟩ := List.forall_mem_cons.1 hne
    cases room with
    | zero => exact absurd hlen (Nat.not_succ_le_zero _)
    | succ room => exact cutText_cons hb (ih (Nat.le_of_succ_le_succ hlen) htext)

/-! ## The frame its opcode decides -/

theorem takesPayload_iff (op : Byte) : takesPayload op = true ↔ op = 0x30 ∨ op = 0x31 := by
  simp [takesPayload]

theorem cutFrame_of_takesPayload {op : Byte} {tail text rest : List Byte} (hop : takesPayload op = true)
    (h : cutText 9 tail = .ok (text, rest)) : cutFrame (op :: tail) = .ok (.payload op text, rest) := by
  simp only [cutFrame, if_pos hop, h]

theorem cutFrame_of_not_takesPayload {op : Byte} (rest : List Byte) (hop : ¬takesPayload op = true) :
    cutFrame (op :: rest) = .ok (.bare op, rest) :=
  if_neg hop

theorem Frame.bytes_payload_append (op : Byte) (text rest : List Byte) :
    (Frame.payload op text).bytes ++ rest = op :: (text ++ 0 :: rest) := by
  simp [Frame.bytes]

theorem cutFrame_payload {op : Byte} {text : List Byte} (rest : List Byte) (hop : takesPayload op = true)
    (hlen : text.length ≤ 9) (hne : ∀ b ∈ text, b ≠ 0) :
    cutFrame ((Frame.payload op text).bytes ++ rest) = .ok (.payload op text, rest) := by
  rw [Frame.bytes_payload_append]
  exact cutFrame_of_takesPayload hop (cutText_terminated rest hlen hne)

/-- Settles O4: a payload by induction on its text, a bare opcode at once. -/
theorem framesCutBackFromTheirBytes : Obligations.FramesCutBackFromTheirBytes := by
  refine ⟨fun op _ rest hop => cutFrame_payload rest ((takesPayload_iff op).2 hop), fun op rest h0 h1 => ?_⟩
  exact cutFrame_of_not_takesPayload rest (mt (takesPayload_iff op).1 (not_or_intro h0 h1))

end Sys2Proof.Machine
end

section
/-! PROOFS. The Tick Timer's operations `configure`, `register_callback` and `disable` as equations, one per case of their rules
(R131 to R133), and the counter's own turn: the clock event with its divider and the count event in both modes (R135, R136). -/

namespace Sys2Proof.Machine

/-! ## Prescaler codes and callback handles -/

theorem exists_divisor_of_legal {ps : Psel} (h1 : 1 ≤ ps.toNat) (h5 : ps.toNat ≤ 5) : ∃ p, divisor ps = some p :=
  Option.isSome_iff_exists.1 ((divisor_isSome ps).trans (by simp [pselLegal, h1, h5]))

theorem divisor_of_reserved {ps : Psel} (h : ps = 0 ∨ ps = 6 ∨ ps = 7) : divisor ps = none := by
  rcases h with rfl | rfl | rfl <;> rfl

theorem handleOf_of_bad {fn : Byte} (h0 : fn ≠ 0x00) (h1 : fn ≠ 0x01) : handleOf fn = .bad :=
  (if_neg h0).trans (if_neg h1)

/-! ## The operations where they are enabled -/

section
variable {r : Role} {s : State}

theorem opConfigure_of_divisor (hr : (s.block r).ready = true) {ps : Psel} {p : Nat} (hp : divisor ps = some p) (a b : Count)
    (m : TimerMode) : opConfigure r a b ps m s = .next (s.setTimer r ((s.timer r).arm a b ps m)) := by
  simp only [opConfigure, hr, hp, if_true]

theorem opConfigure_of_no_divisor (hr : (s.block r).ready = true) {ps : Psel} (hp : divisor ps = none) (a b : Count)
    (m : TimerMode) : opConfigure r a b ps m s = .refused .reservedPrescaler := by
  simp only [opConfigure, hr, hp, if_true]

theorem opRegisterCallback_of_null (hr : (s.block r).ready = true) {fn : Byte} (hf : handleOf fn = .null) :
    opRegisterCallback r fn s = .next s := by
  simp only [opRegisterCallback, hr, hf, if_true]

theorem opRegisterCallback_of_tickInc (hr : (s.block r).ready = true) {fn : Byte} (hf : handleOf fn = .tickInc) :
    opRegisterCallback r fn s = .next (s.setTimer r { s.timer r with cb := .tickInc }) := by
  simp only [opRegisterCallback, hr, hf, if_true]

theorem opRegisterCallback_of_bad (hr : (s.block r).ready = true) {fn : Byte} (hf : handleOf fn = .bad) :
    opRegisterCallback r fn s = .refused .badHandler := by
  simp only [opRegisterCallback, hr, hf, if_true]

theorem opDisable_of_ready (hr : (s.block r).ready = true) :
    opDisable r s = .next (s.setTimer r (s.timer r).clearFlags) :=
  if_pos hr

end

/-! ## The operations as instructions of the moving unit -/

theorem exec_configure (a b : Count) (ps : Psel) (m : TimerMode) (s : State) :
    exec (.configure a b ps m) s = opConfigure s.cur a b ps m s := rfl

theorem exec_registerCallback (fn : Byte) (s : State) : exec (.registerCallback fn) s = opRegisterCallback s.cur fn s := rfl

theorem exec_disable (s : State) : exec .disable s = opDisable s.cur s := rfl

/-- Settles O6: by whether the select code names a divisor. -/
theorem configureArmsTheCounter : Obligations.ConfigureArmsTheCounter := by
  intro s a b ps m hr
  rw [exec_configure]
  refine ⟨fun h1 h5 => ?legal, fun hres => ?reserved⟩
  case legal =>
    obtain ⟨p, hp⟩ := exists_divisor_of_legal h1 h5
    exact opConfigure_of_divisor hr hp a b m
  case reserved => exact opConfigure_of_no_divisor hr (divisor_of_reserved hres) a b m

/-- Settles O7: by what the handle names. -/
theorem registerCallbackInstallsOnlyTickInc : Obligations.RegisterCallbackInstallsOnlyTickInc := by
  intro s fn hr
  rw [exec_registerCallback]
  refine ⟨?null, ?tickInc, fun h0 h1 => ?bad⟩
  case null => rintro rfl; exact opRegisterCallback_of_null hr rfl
  case tickInc => rintro rfl; exact opRegisterCallback_of_tickInc hr rfl
  case bad => exact opRegisterCallback_of_bad hr (handleOf_of_bad h0 h1)

/-- Settles O8: a foreground free to issue it clears the three flags of its own unit. -/
theorem disableStopsAndMasks : Obligations.DisableStopsAndMasks := fun s hr => by
  rw [exec_disable]
  exact opDisable_of_ready hr

/-! ## The count event -/

section
variable {t : Timer}

theorem Timer.fires_iff_of_cmp (hm : t.mode = .cmp) : t.fires = true ↔ t.count = t.compare := by
  simp only [Timer.fires, hm, beq_iff_eq]

theorem Timer.fires_iff_of_free (hm : t.mode = .free) : t.fires = true ↔ t.count = 65535 := by
  simp only [Timer.fires, hm, beq_iff_eq, BitVec.ofNat_eq_ofNat]

theorem Timer.countEvent_of_fires (h : t.fires = true) : t.countEvent = { t with count := 0, pending := true } := if_pos h

theorem Timer.countEvent_of_not_fires (h : ¬t.fires = true) : t.countEvent = { t with count := t.count + 1 } := if_neg h

end

/-- Settles O16: each mode's firing condition decides between the two outcomes of the count event. -/
theorem countEventFiresByMode : Obligations.CountEventFiresByMode := fun _ =>
  ⟨fun hm hc => Timer.countEvent_of_fires ((Timer.fires_iff_of_cmp hm).2 hc),
   fun hm hc => Timer.countEvent_of_not_fires (mt (Timer.fires_iff_of_cmp hm).1 hc),
   fun hm hc => Timer.countEvent_of_fires ((Timer.fires_iff_of_free hm).2 hc),
   fun hm hc => Timer.countEvent_of_not_fires (mt (Timer.fires_iff_of_free hm).1 hc)⟩

/-! ## The clock event -/

section
variable {t : Timer}

theorem Timer.clockEvent_of_stopped (hr : t.run = false) : t.clockEvent = t := by
  simp [Timer.clockEvent, hr]

theorem Timer.clockEvent_of_pdiv_ne (hr : t.run = true) {p : Nat} (hp : divisor t.psel = some p) (hd : t.pdiv.toNat + 1 ≠ p) :
    t.clockEvent = { t with pdiv := t.pdiv + 1 } := by
  simp only [Timer.clockEvent, hr, hp, hd, if_true, if_false]

theorem Timer.clockEvent_of_pdiv_last (hr : t.run = true) {p : Nat} (hp : divisor t.psel = some p)
    (hd : t.pdiv.toNat + 1 = p) : t.clockEvent = { t with pdiv := 0 }.countEvent := by
  simp only [Timer.clockEvent, hr, hp, hd, if_true]

end

/-- The agenda's first event has its turn, whatever the arbiter. -/
theorem step_of_agenda {s : State} {e : Event} {rest : List Event} (h : s.agenda = e :: rest) :
    step s = takeTurn e { s with agenda := rest } := by
  simp only [step, nextTransition, nextTransitionBy, h]

theorem step_clk {s : State} {r : Role} {rest : List Event} (h : s.agenda = .clk r :: rest) :
    step s = .next ({ s with agenda := rest }.setBlock r { s.block r with timer := (s.timer r).clockEvent }) := by
  rw [step_of_agenda h]
  cases r <;> rfl

/-- Settles O15: the turn is the clock event of the unit's timer group, in its three cases. -/
theorem clockTurnDrivesTheDivider : Obligations.ClockTurnDrivesTheDivider := by
  intro s r rest ha u t
  have hstep : step s = .next (u.setBlock r { s.block r with timer := t.clockEvent }) := step_clk ha
  refine ⟨fun hr => ?stopped, fun p hr hp hd => ?divides, fun p hr hp hd => ?counts⟩
  case stopped =>
    rw [hstep, Timer.clockEvent_of_stopped hr]
    exact congrArg _ (u.setBlock_block r)
  case divides => rw [hstep, Timer.clockEvent_of_pdiv_ne hr hp hd]
  case counts => rw [hstep, Timer.clockEvent_of_pdiv_last hr hp hd]

end Sys2Proof.Machine
end

section
/-! PROOFS. The Command Framer's `send_byte` as an equation where it is enabled (rule R171). -/

namespace Sys2Proof.Machine

/-- The queue has no bound: being enabled is all the operation needs. -/
theorem opSendByte_of_ready {r : Role} {s : State} (hr : (s.block r).ready = true) (b : Byte) :
    opSendByte r b s = .next (s.push r.peer b) :=
  if_pos hr

theorem exec_sendByte (b : Byte) (s : State) : exec (.sendByte b) s = opSendByte s.cur b s := rfl

/-- Settles O24: an enabled `send_byte` is one push on the peer's queue. -/
theorem sendByteJoinsThePeersQueue : Obligations.SendByteJoinsThePeersQueue := fun s b hr => by
  rw [exec_sendByte, opSendByte_of_ready hr, State.push_eq]

end Sys2Proof.Machine
end

section
/-! PROOFS. The dispatch step of the control unit's shell (rules R191, R202): every command taken in `(C_WAIT, 0)` consumes its byte
and enters its handler's state, and the shell's turn takes the command of the byte at the head. -/

namespace Sys2Proof.Machine

/-! ## A turn of a booted shell -/

@[simp] theorem State.turn_block (s : State) (r q : Role) (rest : List Event) : (s.turn r rest).block q = s.block q := by
  cases q <;> rfl

@[simp] theorem State.turn_booted (s : State) (r q : Role) (rest : List Event) : (s.turn r rest).booted q = s.booted q := by
  cases q <;> rfl

theorem foregroundStep_of_booted_shell {s : State} {r : Role} (hfore : (s.block r).fore = .shell) (hport : (s.block r).port = [])
    (hbooted : s.booted r = true) (hwaiting : (s.block r).timer.waiting = false) : foregroundStep r s = shellStep r s := by
  simp [foregroundStep, hfore, hport, hbooted, hwaiting]

theorem ShellTurn.step_eq {s : State} {r : Role} {rest : List Event} (h : ShellTurn s r rest) :
    step s = shellStep r (s.turn r rest) :=
  calc step s = foregroundStep r (s.turn r rest) := step_of_agenda h.agenda
    _ = shellStep r (s.turn r rest) :=
      foregroundStep_of_booted_shell (by simp [h.fore]) (by simp [h.port]) (by simp [h.booted]) (by simpa using h.waiting)

/-! ## The dispatch step -/

/-- The state a command's dispatch enters: its handler's, or `C_WAIT` again where it has none (rules R191, R202). -/
def dispatchState : Instr → CtrlState
  | .cmdSetpw => .setpw
  | .cmdVerify => .verify
  | .cmdOpen => .open
  | .cmdLock => .lock
  | _ => .wait

/-- The control unit's shell is enabled and stands at the dispatch step (rules R190, R191). -/
structure State.AtDispatch (s : State) : Prop where
  booted : s.ctrlShell.booted = true
  waiting : s.ctrl.timer.waiting = false
  st : s.ctrlShell.st = .wait
  step : s.ctrlShell.step = 0

theorem dispatch_nil {s : State} (st : CtrlState) (hq : s.ctrl.rxq = []) : dispatch st s = .next s := by
  simp only [dispatch, hq]

theorem dispatch_cons {s : State} {b : Byte} {rest : List Byte} (st : CtrlState) (hq : s.ctrl.rxq = b :: rest) :
    dispatch st s = .next ({ s with ctrl := { s.ctrl with rxq := rest } }.ctrlGo st 0) := by
  simp only [dispatch, hq]

section
variable {s : State}

theorem State.AtDispatch.enabled (h : s.AtDispatch) : s.ctrlEnabled = true := by
  simp [State.ctrlEnabled, h.booted, h.waiting]

theorem commandStep_of_atDispatch (h : s.AtDispatch) (st : CtrlState) (own : State → Result) :
    commandStep st own s = dispatch st s := by
  simp only [commandStep, h.enabled, h.st, h.step, if_true]

theorem execCmdIgnored_of_atDispatch (h : s.AtDispatch) (b : Byte) : execCmdIgnored b s = dispatch .wait s :=
  if_pos ⟨h.enabled, h.st, h.step⟩

/-- At the dispatch step the commands differ only in the state they enter. -/
theorem exec_of_atDispatch (h : s.AtDispatch) {i : Instr} (hi : i.stream = .cmd) : exec i s = dispatch (dispatchState i) s := by
  cases i with
  | cmdSetpw => exact commandStep_of_atDispatch h .setpw setpwStep
  | cmdVerify => exact commandStep_of_atDispatch h .verify verifyStep
  | cmdOpen => exact commandStep_of_atDispatch h .open openStep
  | cmdLock => exact commandStep_of_atDispatch h .lock lockStep
  | cmdIgnored b => exact execCmdIgnored_of_atDispatch h b
  | _ => cases hi

theorem exec_of_atDispatch_cons (h : s.AtDispatch) {i : Instr} (hi : i.stream = .cmd) {b : Byte} {rest : List Byte}
    (hq : s.ctrl.rxq = b :: rest) :
    exec i s = .next ({ s with ctrl := { s.ctrl with rxq := rest } }.ctrlGo (dispatchState i) 0) :=
  (exec_of_atDispatch h hi).trans (dispatch_cons _ hq)

/-! ## The command of a byte -/

theorem decodeCmd_stream (b : Byte) : (decodeCmd b).stream = .cmd := by
  unfold decodeCmd
  split_ifs <;> rfl

theorem dispatchState_decodeCmd (b : Byte) :
    dispatchState (decodeCmd b) =
      if b = 0x30 then .setpw else if b = 0x31 then .verify else if b = 0x32 then .open else if b = 0x33 then .lock else .wait := by
  simp only [decodeCmd, apply_ite dispatchState]
  rfl

theorem ctrlInstr_of_wait (h : s.ctrlShell.st = .wait) : ctrlInstr s = s.ctrl.rxq.head?.map decodeCmd := by
  simp only [ctrlInstr, h]

theorem shellStep_of_atDispatch_nil (h : s.AtDispatch) (hq : s.ctrl.rxq = []) : shellStep .ctrl s = .next s := by
  simp [shellStep, ctrlInstr_of_wait h.st, hq]

theorem shellStep_of_atDispatch_cons (h : s.AtDispatch) {b : Byte} {rest : List Byte} (hq : s.ctrl.rxq = b :: rest) :
    shellStep .ctrl s = .next ({ s with ctrl := { s.ctrl with rxq := rest } }.ctrlGo (dispatchState (decodeCmd b)) 0) := by
  have hi : ctrlInstr s = some (decodeCmd b) := by simp [ctrlInstr_of_wait h.st, hq]
  simp only [shellStep, hi]
  exact exec_of_atDispatch_cons h (decodeCmd_stream b) hq

theorem ShellTurn.atDispatch {rest : List Event} (h : ShellTurn s .ctrl rest) (hst : s.ctrlShell.st = .wait)
    (hstep : s.ctrlShell.step = 0) : (s.turn .ctrl rest).AtDispatch :=
  ⟨h.booted, h.waiting, hst, hstep⟩

end

/-- Settles O33: each command, and the shell's turn through the command of its byte, is one `dispatch`. -/
theorem dispatchEntersTheHandler : Obligations.DispatchEntersTheHandler := by
  refine ⟨fun s hbooted hwaiting hst hstep => ?commands, fun s evs hturn hst hstep => ?turn⟩
  case commands =>
    have h : s.AtDispatch := ⟨hbooted, hwaiting, hst, hstep⟩
    refine ⟨fun rest => ?execByte, fun hq i hi => (exec_of_atDispatch h hi).trans (dispatch_nil _ hq)⟩
    exact ⟨exec_of_atDispatch_cons h rfl, exec_of_atDispatch_cons h rfl, exec_of_atDispatch_cons h rfl,
      exec_of_atDispatch_cons h rfl, fun _ _ => exec_of_atDispatch_cons h rfl⟩
  case turn =>
    have h : (s.turn .ctrl evs).AtDispatch := hturn.atDispatch hst hstep
    rw [hturn.step_eq]
    refine ⟨fun b rest hq => ?turnByte, fun hq => shellStep_of_atDispatch_nil h hq⟩
    rw [shellStep_of_atDispatch_cons h hq, dispatchState_decodeCmd]
    rfl

end Sys2Proof.Machine
end

section
/-! PROOFS. The HMI shell's menu step `H_CHOICE` and the comparison of the two entries at `H_SETTING` step 2 (rules R223, R225,
R230), each as equations of its own step and taken by the shell's turn. -/

namespace Sys2Proof.Machine

/-! ## A turn of the HMI shell at a step of its own -/

theorem hmiInstr_of_st_ne_verify {s : State} (h : s.hmiShell.st ≠ .verify) : hmiInstr s = none := if_neg h

/-- The responses stand in `H_VERIFY` only, so in every other state the shell's turn takes its own step. -/
theorem ShellTurn.step_eq_hmiShellStep {s : State} {rest : List Event} (h : ShellTurn s .hmi rest) (hst : s.hmiShell.st ≠ .verify) :
    step s = hmiShellStep (s.turn .hmi rest) := by
  have hi : hmiInstr (s.turn .hmi rest) = none := hmiInstr_of_st_ne_verify hst
  rw [h.step_eq]
  simp only [shellStep, hi]

/-! ## The menu step -/

section
variable {s : State}

theorem hmiShellStep_choice (hst : s.hmiShell.st = .choice) (hstep : s.hmiShell.step = 0) : hmiShellStep s = choiceStep s := by
  simp [hmiShellStep, hst, hstep]

theorem choiceStep_of_no_key (hk : s.key = none) : choiceStep s = .next s := by
  simp only [choiceStep, hk]

theorem choiceStep_of_keyOpen (hk : s.key = some s.params.keyOpen) :
    choiceStep s = .next { s with
      key := none, hmiShell := { s.hmiShell with action := .open, trials := 3, st := .verify, step := 0 } } := by
  simp only [choiceStep, hk, if_true]
  rfl

/-- The two menu keys differ (rule R7): the test for `KEY_OPEN` comes first. -/
theorem choiceStep_of_keyChange (hne : s.params.keyChange ≠ s.params.keyOpen) (hk : s.key = some s.params.keyChange) :
    choiceStep s = .next { s with
      key := none, hmiShell := { s.hmiShell with action := .change, trials := 3, st := .verify, step := 0 } } := by
  simp only [choiceStep, hk, hne, if_true, if_false]
  rfl

theorem choiceStep_of_other_key {k : Byte} (hk : s.key = some k) (ho : k ≠ s.params.keyOpen) (hc : k ≠ s.params.keyChange) :
    choiceStep s = .next { s with key := none, disp := s.disp ++ [.menu] } := by
  simp only [choiceStep, hk, ho, hc, if_false]
  rfl

end

/-- Settles O46: the turn is the menu step, by the key that answers its call. -/
theorem menuKeyStartsAnAccessRequest : Obligations.MenuKeyStartsAnAccessRequest := by
  intro s rest hturn hst hstep u h
  have hchoice : step s = choiceStep u := by
    rw [hturn.step_eq_hmiShellStep (by simp [hst])]
    exact hmiShellStep_choice hst hstep
  rw [hchoice]
  exact ⟨choiceStep_of_no_key (s := u), choiceStep_of_keyOpen (s := u), choiceStep_of_keyChange (s := u),
    fun _ => choiceStep_of_other_key (s := u)⟩

/-! ## The comparison of the two entries -/

theorem textEq_iff (x y : Text) (size : Nat) : textEq x y size = true ↔ ∀ i < size, x.byte i = y.byte i := by
  simp only [textEq, List.all_eq_true, List.mem_range, beq_iff_eq]

theorem textsMatch_iff (x y : Text) :
    textsMatch x y = true ↔ x.len = y.len ∧ ∀ i < x.len.toNat, x.byte i = y.byte i := by
  simp only [textsMatch, Bool.and_eq_true, beq_iff_eq, textEq_iff]

section
variable {s : State}

theorem hmiShellStep_compare (hst : s.hmiShell.st = .setting) (hstep : s.hmiShell.step = 2) :
    hmiShellStep s = if textsMatch s.hmi.pbuf s.hmi.xbuf then .next (s.hmiGo .setting 4)
      else .next ((s.show .mismatch).hmiGo .setting 3) := by
  simp [hmiShellStep, hst, hstep]

/-- A step within a state of the shell's tables writes `STEP` only. -/
theorem State.hmiGo_of_st {st : HmiState} (hst : s.hmiShell.st = st) (k : BitVec 5) :
    s.hmiGo st k = { s with hmiShell := { s.hmiShell with step := k } } := by
  subst hst
  rfl

end

/-- Settles O49: the turn is the comparison, by whether the two texts match. -/
theorem setupComparesTheTwoEntries : Obligations.SetupComparesTheTwoEntries := by
  intro s rest hturn hst hstep u same
  have hcompare : step s = if textsMatch s.hmi.pbuf s.hmi.xbuf then .next (u.hmiGo .setting 4)
      else .next ((u.show .mismatch).hmiGo .setting 3) := by
    rw [hturn.step_eq_hmiShellStep (by simp [hst])]
    exact hmiShellStep_compare hst hstep
  have hsame : textsMatch s.hmi.pbuf s.hmi.xbuf = true ↔ same := textsMatch_iff _ _
  rw [hcompare]
  refine ⟨fun heq => ?matching, fun hne => ?mismatch⟩
  case matching => rw [if_pos (hsame.2 heq), State.hmiGo_of_st (s := u) hst]; rfl
  case mismatch => rw [if_neg (mt hsame.1 hne), State.hmiGo_of_st (s := u.show .mismatch) hst]; rfl

end Sys2Proof.Machine
end

section
/-! PROOFS. The handler step (rules R266, R267) as equations: when it is enabled, what the registered callback does to the timer
group, and the unit's turn of `IRQ`. -/

namespace Sys2Proof.Machine

/-! ## The interrupt-request line -/

section
variable {t : Timer}

theorem Timer.irqLine_eq_true_iff : t.irqLine = true ↔ t.pending = true ∧ t.ie = true := Bool.and_eq_true_iff

theorem Timer.irqLine_eq_false_iff : t.irqLine = false ↔ t.pending = false ∨ t.ie = false := Bool.and_eq_false_iff

/-! ## The handler step, where the line or the callback decides its case -/

theorem Timer.takeInterrupt_of_irqLine_eq_false (hq : t.irqLine = false) : t.takeInterrupt = t := if_neg (Bool.eq_false_iff.1 hq)

theorem Timer.takeInterrupt_of_no_callback (hq : t.irqLine = true) (hc : t.cb = .none) :
    t.takeInterrupt = { t with pending := false } := by
  rcases t.takeInterrupt_cases with ⟨hoff, -⟩ | ⟨-, -, h⟩ | ⟨-, hinc, -⟩ | ⟨-, hinc, -⟩
  · cases hq.symm.trans hoff
  · exact h
  · cases hc.symm.trans hinc
  · cases hc.symm.trans hinc

theorem Timer.takeInterrupt_of_not_target (hq : t.irqLine = true) (hc : t.cb = .tickInc)
    (hn : ¬(t.waiting = true ∧ t.ticks + 1 = t.wtarget)) :
    t.takeInterrupt = { t with pending := false, ticks := t.ticks + 1 } := by
  rcases t.takeInterrupt_cases with ⟨hoff, -⟩ | ⟨-, hnone, -⟩ | ⟨-, -, -, h⟩ | ⟨-, -, hw, ht, -⟩
  · cases hq.symm.trans hoff
  · cases hc.symm.trans hnone
  · exact h
  · exact absurd ⟨hw, ht⟩ hn

/-- The increment itself is not seen: the completion writes `TICKS` = 0 in the same step (rule R267). -/
theorem Timer.takeInterrupt_of_target (hq : t.irqLine = true) (hc : t.cb = .tickInc) (hw : t.waiting = true)
    (ht : t.ticks + 1 = t.wtarget) :
    t.takeInterrupt = { t with ticks := 0, run := false, ie := false, pending := false, waiting := false } := by
  rcases t.takeInterrupt_cases with ⟨hoff, -⟩ | ⟨-, hnone, -⟩ | ⟨-, -, hn, -⟩ | ⟨-, -, -, -, h⟩
  · cases hq.symm.trans hoff
  · cases hc.symm.trans hnone
  · exact absurd ⟨hw, ht⟩ hn
  · exact h

end

/-! ## The turn of a unit's handler -/

theorem step_irq {s : State} {r : Role} {rest : List Event} (h : s.agenda = .irq r :: rest) :
    step s = .next ({ s with agenda := rest }.setBlock r { s.block r with timer := (s.timer r).takeInterrupt }) := by
  rw [step_of_agenda h]
  cases r <;> rfl

/-- Settles O19: the turn is the handler step of the unit's timer group, by the request line, the callback and the target. -/
theorem handlerTurnIncrementsAndCompletes : Obligations.HandlerTurnIncrementsAndCompletes := by
  intro s r rest ha u t
  have hstep : step s = .next (u.setBlock r { s.block r with timer := t.takeInterrupt }) := step_irq ha
  have hline (hp : t.pending = true) (hi : t.ie = true) : t.irqLine = true := Timer.irqLine_eq_true_iff.2 ⟨hp, hi⟩
  refine ⟨fun hoff => ?notEnabled, fun hp hi hc => ?dropped, fun hp hi hc hn => ?counted, fun hp hi hc hw ht => ?completed⟩
  case notEnabled =>
    rw [hstep, Timer.takeInterrupt_of_irqLine_eq_false (Timer.irqLine_eq_false_iff.2 hoff)]
    exact congrArg _ (u.setBlock_block r)
  case dropped => rw [hstep, Timer.takeInterrupt_of_no_callback (hline hp hi) hc]
  case counted => rw [hstep, Timer.takeInterrupt_of_not_target (hline hp hi) hc hn]
  case completed => rw [hstep, Timer.takeInterrupt_of_target (hline hp hi) hc hw ht]

end Sys2Proof.Machine
end

section
/-! PROOFS. Reset and boot (rules R57, R300, R302, R303): the boot step of a unit's shell as an equation, what the reset of one unit
writes and what it leaves, and the values of the reset state. -/

namespace Sys2Proof.Machine

/-! ## The boot step -/

theorem afterOp_of_idle {r : Role} {t : State} (h : (t.block r).act = .idle) (adv : State → State) :
    afterOp r adv (.next t) = .next (adv t) :=
  if_pos h

/-- `register_callback` completes where it is issued, so `BOOTED` rises in the same transition (rule R303). -/
theorem bootStep_of_ready {r : Role} {s : State} (hr : (s.block r).ready = true) :
    bootStep r s = .next ((s.setTimer r { s.timer r with cb := .tickInc }).setBooted r) := by
  have hidle : (s.block r).act = .idle := ((Block.ready_iff _).1 hr).2
  calc bootStep r s = afterOp r (·.setBooted r) (opRegisterCallback r 0x01#8 s) := if_pos hr
    _ = afterOp r (·.setBooted r) (.next (s.setTimer r { s.timer r with cb := .tickInc })) := by
      rw [opRegisterCallback_of_tickInc hr rfl]
    _ = .next ((s.setTimer r { s.timer r with cb := .tickInc }).setBooted r) := afterOp_of_idle (by simp [hidle]) _

theorem foregroundStep_of_unbooted_shell {s : State} {r : Role} (hfore : (s.block r).fore = .shell) (hport : (s.block r).port = [])
    (hbooted : s.booted r = false) (hwaiting : (s.block r).timer.waiting = false) : foregroundStep r s = bootStep r s := by
  simp [foregroundStep, hfore, hport, hbooted, hwaiting]

/-- Settles O55: the turn of a shell that has not booted is its boot step. -/
theorem bootRegistersTheCallback : Obligations.BootRegistersTheCallback := by
  intro s r rest ha hfore hport hready hbooted
  have hwaiting : (s.block r).timer.waiting = false := ((Block.ready_iff _).1 hready).1
  calc step s = foregroundStep r (s.turn r rest) := step_of_agenda ha
    _ = bootStep r (s.turn r rest) :=
      foregroundStep_of_unbooted_shell (by simp [hfore]) (by simp [hport]) (by simp [hbooted]) (by simp [hwaiting])
    _ = .next (((s.turn r rest).setTimer r { (s.turn r rest).timer r with cb := .tickInc }).setBooted r) :=
      bootStep_of_ready (by simp [hready])
    _ = .next (((s.turn r rest).setBlock r { s.block r with timer := { (s.block r).timer with cb := .tickInc } }).setBooted r) := by
      simp

/-! ## The reset of one unit -/

@[simp] theorem State.resetUnit_block (s : State) (r : Role) (f : Foreground) :
    (s.resetUnit r f).block r = resetBlock s.draws f := by cases r <;> rfl

@[simp] theorem State.resetUnit_block_peer (s : State) (r : Role) (f : Foreground) :
    (s.resetUnit r f).block r.peer = s.block r.peer := by cases r <;> rfl

@[simp] theorem State.resetUnit_store (s : State) (r : Role) (f : Foreground) : (s.resetUnit r f).store = s.store := by
  cases r <;> rfl

/-- The values rule R57 gives an instance, whatever is drawn for the bytes it leaves unspecified. -/
theorem State.resetUnit_values (s : State) (r : Role) (f : Foreground) :
    ((s.resetUnit r f).block r).timer = Timer.reset ∧ ((s.resetUnit r f).block r).rxq = []
      ∧ ((s.resetUnit r f).block r).pbuf.len = 0 ∧ ((s.resetUnit r f).block r).xbuf.len = 0 := by
  rw [State.resetUnit_block]
  exact ⟨rfl, rfl, rfl, rfl⟩

/-- The draw is below 10, so the four bits of `PWLEN` hold it (rule R42, U6). -/
theorem resetPwlen_toNat_le (draw : Nat) : (BitVec.ofNat 4 (Config.resetPwlen draw).val).toNat ≤ 9 :=
  calc (BitVec.ofNat 4 (Config.resetPwlen draw).val).toNat ≤ (Config.resetPwlen draw).val := by
        rw [BitVec.toNat_ofNat]
        exact Nat.mod_le _ _
    _ ≤ 9 := Nat.le_of_lt_succ (Config.resetPwlen draw).isLt

theorem step_reset {s : State} {r : Role} {f : Foreground} {rest : List Event} (h : s.agenda = .reset r f :: rest) :
    step s = .next ({ s with agenda := rest }.resetUnit r f) :=
  step_of_agenda h

/-- Settles O56: each role's reset writes its own instance and shell; `STORE`, the other instance and the other shell stand. -/
theorem resetOfOneUnit : Obligations.ResetOfOneUnit := by
  refine ⟨fun s f rest ha => ⟨_, step_reset ha, ?ctrl⟩, fun s f rest ha => ⟨_, step_reset ha, ?hmi⟩⟩
  case ctrl =>
    obtain ⟨htimer, hrxq, hplen, hxlen⟩ := State.resetUnit_values { s with agenda := rest } .ctrl f
    exact ⟨htimer, hrxq, hplen, hxlen, rfl, rfl, rfl, rfl, rfl, rfl, resetPwlen_toNat_le s.draws,
      State.resetUnit_store _ .ctrl f, State.resetUnit_block_peer _ .ctrl f, rfl⟩
  case hmi =>
    obtain ⟨htimer, hrxq, hplen, hxlen⟩ := State.resetUnit_values { s with agenda := rest } .hmi f
    exact ⟨htimer, hrxq, hplen, hxlen, rfl, State.resetUnit_store _ .hmi f, State.resetUnit_block_peer _ .hmi f, rfl⟩

/-! ## The reset state -/

@[simp] theorem State.reset_block (r : Role) : State.reset.block r = Block.reset := by cases r <;> rfl

/-- Settles O57: both units' instances are the reset instance, and each shell stands at its entry point. -/
theorem resetStateHoldsTheSpecsValues : Obligations.ResetStateHoldsTheSpecsValues := by
  refine ⟨fun r => ?block, ?hmiShell, ?ctrlShell⟩
  case block =>
    rw [State.timer_eq, State.reset_block]
    exact ⟨rfl, rfl, rfl, rfl⟩
  case hmiShell => rfl
  case ctrlShell => exact ⟨rfl, rfl, rfl, rfl, rfl, rfl⟩

end Sys2Proof.Machine
end

section
/-! PROOFS. The encodings (rules R101, R103 to R105, R109, R110, R114): the fields of a packed operation word, decoding what an
instruction is encoded to, the decoders' tables, and the serial character. -/

namespace Sys2Proof.Machine

/-! ## The fields of a packed operation word -/

theorem toNat_append_eq_add {k l : Nat} (x : BitVec k) (y : BitVec l) : (x ++ y).toNat = x.toNat * 2 ^ l + y.toNat := by
  rw [BitVec.toNat_append, ← Nat.shiftLeft_add_eq_or_of_lt y.isLt, Nat.shiftLeft_eq]

theorem toNat_extractLsb' {k : Nat} (w : BitVec k) (i l : Nat) : (w.extractLsb' i l).toNat = w.toNat / 2 ^ i % 2 ^ l := by
  rw [BitVec.extractLsb'_toNat, Nat.shiftRight_eq_div_pow]

section
variable (sel : BitVec 4) (a b : Count) (ps : Psel) (m : BitVec 1) (n : Byte)

/-- The concatenation of rule R103 as a number: each field at the weight of its lowest bit. -/
theorem toNat_packOpw : (packOpw sel a b ps m n).toNat =
    sel.toNat * 2 ^ 44 + a.toNat * 2 ^ 28 + b.toNat * 2 ^ 12 + ps.toNat * 2 ^ 9 + m.toNat * 2 ^ 8 + n.toNat := by
  simp only [packOpw, toNat_append_eq_add]
  omega

@[simp] theorem opselOf_packOpw : opselOf (packOpw sel a b ps m n) = sel := by
  apply BitVec.eq_of_toNat_eq
  rw [opselOf, toNat_extractLsb', toNat_packOpw]
  omega

@[simp] theorem initialOf_packOpw : initialOf (packOpw sel a b ps m n) = a := by
  apply BitVec.eq_of_toNat_eq
  rw [initialOf, toNat_extractLsb', toNat_packOpw]
  omega

@[simp] theorem compareOf_packOpw : compareOf (packOpw sel a b ps m n) = b := by
  apply BitVec.eq_of_toNat_eq
  rw [compareOf, toNat_extractLsb', toNat_packOpw]
  omega

@[simp] theorem pselOf_packOpw : pselOf (packOpw sel a b ps m n) = ps := by
  apply BitVec.eq_of_toNat_eq
  rw [pselOf, toNat_extractLsb', toNat_packOpw]
  omega

@[simp] theorem lowByteOf_packOpw : lowByteOf (packOpw sel a b ps m n) = n := by
  apply BitVec.eq_of_toNat_eq
  rw [lowByteOf, toNat_extractLsb', toNat_packOpw]
  omega

/-- `M` is the bit above the low byte. -/
theorem getLsbD_eight_packOpw : (packOpw sel a b ps m n).getLsbD 8 = decide (m.toNat = 1) := by
  rw [BitVec.getLsbD, Nat.testBit_eq_decide_div_mod_eq, toNat_packOpw, decide_eq_decide]
  omega

/-- `N[0]` is the word's lowest bit. -/
theorem getLsbD_zero_packOpw : (packOpw sel a b ps m n).getLsbD 0 = decide (n.toNat % 2 = 1) := by
  rw [BitVec.getLsbD, Nat.testBit_eq_decide_div_mod_eq, toNat_packOpw, decide_eq_decide]
  omega

end

@[simp] theorem modeOf_packOpw (sel : BitVec 4) (a b : Count) (ps : Psel) (m : TimerMode) (n : Byte) :
    modeOf (packOpw sel a b ps (modeBit m) n) = m := by
  rw [modeOf, getLsbD_eight_packOpw]
  cases m <;> rfl

@[simp] theorem bufOf_packOpw (sel : BitVec 4) (a b : Count) (ps : Psel) (m : BitVec 1) (buf : BufSel) :
    bufOf (packOpw sel a b ps m (bufByte buf)) = buf := by
  rw [bufOf, getLsbD_zero_packOpw]
  cases buf <;> rfl

/-! ## Decoding what an instruction is encoded to -/

/-- The operation word carries every operand back, legal or not. -/
theorem decodeOpw_of_encodeOpw {i : Instr} {w : Opw} (h : encodeOpw i = some w) : decodeOpw w = i := by
  cases i <;> cases h <;> simp [decodeOpw]

/-- The byte of a command or a response is read back on its own stream, where the operand byte is legal. -/
theorem decode_of_encodeByte {i : Instr} {st : Stream} {b : Byte} (hw : i.wellFormed = true) (h : encodeByte i = some (st, b)) :
    decode st (.byte b) = .ok i := by
  cases i <;> cases h
  case cmdIgnored =>
    obtain ⟨⟨⟨h0, h1⟩, h2⟩, h3⟩ : ((b ≠ 0x30#8 ∧ b ≠ 0x31#8) ∧ b ≠ 0x32#8) ∧ b ≠ 0x33#8 := by
      simpa [Instr.wellFormed, isCommandOpcode] using hw
    simp [decode, decodeCmd, h0, h1, h2, h3]
  case rspNomatch =>
    simp [decode, decodeRsp, show b ≠ 0x31#8 by simpa [Instr.wellFormed] using hw]
  all_goals rfl

theorem decode_of_encodeOne {i : Instr} {c : CodeWord} (hw : i.wellFormed = true) (h : encodeOne i = some c) :
    decode i.stream c = .ok i := by
  unfold encodeOne at h
  unfold Instr.stream
  split at h
  case h_1 st b hb =>
    cases h
    exact decode_of_encodeByte hw hb
  case h_2 hb =>
    obtain ⟨w, hword, rfl⟩ := Option.map_eq_some_iff.1 h
    exact congrArg Except.ok (decodeOpw_of_encodeOpw hword)

/-- The operations a pseudo-instruction stands for are read from its own stream. -/
theorem stream_of_mem_expand {i j : Instr} (h : j ∈ expand i) : j.stream = i.stream := by
  cases i
  case delay1s | delay15s | delay60s | delay3s => 
    revert j; decide
  case sendFrame op buf =>
    cases buf <;> simp only [expand, List.mem_cons, List.not_mem_nil, or_false] at h
    · subst h; rfl
    · rcases h with rfl | rfl <;> rfl
  all_goals
    cases List.mem_singleton.1 h
    rfl

/-- Every legal instruction stands for legal operations that have words. -/
theorem legalWords (i : Instr) : Laws.LegalWords.Statement i := by
  cases i with
  | configure a b ps m => exact Laws.LegalWords.configure a b ps m
  | registerCallback fn => exact Laws.LegalWords.registerCallback fn
  | disable => exact Laws.LegalWords.disable
  | waitTicks n a b ps m => exact Laws.LegalWords.waitTicks n a b ps m
  | sendByte b => exact Laws.LegalWords.sendByte b
  | receiveByte => exact Laws.LegalWords.receiveByte
  | sendText buf => exact Laws.LegalWords.sendText buf
  | receiveText => exact Laws.LegalWords.receiveText
  | cmdSetpw => exact Laws.LegalWords.cmdSetpw
  | cmdVerify => exact Laws.LegalWords.cmdVerify
  | cmdOpen => exact Laws.LegalWords.cmdOpen
  | cmdLock => exact Laws.LegalWords.cmdLock
  | cmdIgnored b => exact Laws.LegalWords.cmdIgnored b
  | rspMatch => exact Laws.LegalWords.rspMatch
  | rspNomatch b => exact Laws.LegalWords.rspNomatch b
  | delay1s => exact Laws.LegalWords.delay1s
  | delay15s => exact Laws.LegalWords.delay15s
  | delay60s => exact Laws.LegalWords.delay60s
  | delay3s => exact Laws.LegalWords.delay3s
  | sendFrame op buf => exact Laws.LegalWords.sendFrame op buf
  | _ => exact nofun

theorem map_filterMap_eq_map {α β γ : Type} {f : α → Option β} {g : β → γ} {h : α → γ} {l : List α}
    (hl : ∀ a ∈ l, ∃ b, f a = some b ∧ g b = h a) : (l.filterMap f).map g = l.map h := by
  induction l with
  | nil => rfl
  | cons a l ih =>
    obtain ⟨⟨b, hb, hg⟩, hrest⟩ := List.forall_mem_cons.1 hl
    rw [List.filterMap_cons_some hb, List.map_cons, List.map_cons, hg, ih hrest]

/-- Settles O1: word by word, by the fields of the packed word and the bytes of the two byte streams. -/
theorem decodeInvertsEncode : Obligations.DecodeInvertsEncode := by
  refine ⟨fun _ _ => decodeOpw_of_encodeOpw, fun i hw => map_filterMap_eq_map fun j hj => ?word⟩
  obtain ⟨hjw, hword⟩ := legalWords i hw j hj
  obtain ⟨c, hc⟩ := Option.isSome_iff_exists.1 hword
  exact ⟨c, hc, stream_of_mem_expand hj ▸ decode_of_encodeOne hjw hc⟩

/-! ## The decoders' tables -/

/-- Settles O2: the twelve words of table B1 are evaluated. -/
theorem specWordsDecode : Obligations.SpecWordsDecode := by
  unfold Obligations.SpecWordsDecode
  decide

theorem decodeCmd_of_other {b : Byte} (h0 : b ≠ 0x30) (h1 : b ≠ 0x31) (h2 : b ≠ 0x32) (h3 : b ≠ 0x33) :
    decodeCmd b = .cmdIgnored b :=
  (if_neg h0).trans <| (if_neg h1).trans <| (if_neg h2).trans (if_neg h3)

theorem decodeRsp_of_ne {b : Byte} (h : b ≠ 0x31) : decodeRsp b = .rspNomatch b := if_neg h

/-- Settles O3: the bytes by the comparisons of their decoders, the operation words by the code each `OPSEL` value is. -/
theorem decodersReadTheirTables : Obligations.DecodersReadTheirTables := by
  refine ⟨⟨rfl, rfl, rfl, rfl, fun _ => decodeCmd_of_other, rfl, fun _ => decodeRsp_of_ne⟩, fun w => ?opw⟩
  refine ⟨?_, ?_, ?_, ?_, ?_, ?_, ?_, ?_, ?_, ?_, ?_, ?_, ?_, ?_, ?_, ?_⟩ <;> intro h <;> simp only [decodeOpw, h] <;> rfl

/-! ## The serial character -/

/-- The data bits of a character, joined most significant first, are its byte. -/
theorem charByte_charBits (d : Byte) : charByte (charBits d) = some d := by
  revert d
  decide

/-- Settles O5: the ten line values are listed, and the eight in the middle are the byte's bits in order. -/
theorem serialCharacterCarriesItsByte : Obligations.SerialCharacterCarriesItsByte := by
  refine fun d => ⟨rfl, rfl, rfl, fun k hk => ?bit, charByte_charBits d⟩
  interval_cases k <;> rfl

end Sys2Proof.Machine
end

section
/-! PROOFS. The Tick Timer's `wait_ticks` and the delays as equations, one per case of their rules (R134, R138 to R140), and the
reserved operations (rule R111). -/

namespace Sys2Proof.Machine

/-! ## `wait_ticks` where it is enabled -/

section
variable {r : Role} {s : State} {n : Tick} {a b : Count} {ps : Psel} {m : TimerMode}

theorem opWaitTicks_of_waiting (hw : (s.block r).timer.waiting = true) : opWaitTicks r n a b ps m s = .next s := if_pos hw

theorem opWaitTicks_of_stale (hr : (s.block r).ready = true) (ht : (s.block r).timer.ticks ≠ 0) :
    opWaitTicks r n a b ps m s = .refused .staleTicks := by
  obtain ⟨hw, ha⟩ := (Block.ready_iff _).1 hr
  have ht : (s.block r).timer.ticks ≠ 0#8 := ht
  simp [opWaitTicks, hw, ha, ht]

theorem opWaitTicks_of_no_divisor (hr : (s.block r).ready = true) (ht : (s.block r).timer.ticks = 0) (hp : divisor ps = none) :
    opWaitTicks r n a b ps m s = .refused .reservedPrescaler := by
  obtain ⟨hw, ha⟩ := (Block.ready_iff _).1 hr
  simp [opWaitTicks, hw, ha, ht, hp]

theorem opWaitTicks_of_divisor (hr : (s.block r).ready = true) (ht : (s.block r).timer.ticks = 0) {p : Nat}
    (hp : divisor ps = some p) :
    opWaitTicks r n a b ps m s = .next (s.setBlock r { s.block r with
      timer := (s.block r).timer.beginWait n a b ps m, act := if n = 0 then .idle else .inWait }) := by
  obtain ⟨hw, ha⟩ := (Block.ready_iff _).1 hr
  simp [opWaitTicks, hw, ha, ht, hp]

/-- The return from a completed wait (entry 3). -/
theorem opWaitTicks_of_completed (hw : (s.block r).timer.waiting = false) (ha : (s.block r).act = .inWait) :
    opWaitTicks r n a b ps m s = .next (s.setBlock r { s.block r with act := .idle }) := by
  simp [opWaitTicks, hw, ha]

end

theorem exec_waitTicks (n : Tick) (a b : Count) (ps : Psel) (m : TimerMode) (s : State) :
    exec (.waitTicks n a b ps m) s = opWaitTicks s.cur n a b ps m s := rfl

/-- Settles O9: by `TICKS`, by whether the select code names a divisor, and by whether there is a tick to wait for. -/
theorem waitTicksBegins : Obligations.WaitTicksBegins := by
  intro s n a b ps m hr
  rw [exec_waitTicks]
  have hidle : (s.block s.cur).act = .idle := ((Block.ready_iff _).1 hr).2
  refine ⟨opWaitTicks_of_stale hr, fun ht hres => opWaitTicks_of_no_divisor hr ht (divisor_of_reserved hres),
    fun ht h1 h5 hn => ?atOnce, fun ht h1 h5 hn => ?waits⟩
  case atOnce =>
    obtain ⟨p, hp⟩ := exists_divisor_of_legal h1 h5
    rw [opWaitTicks_of_divisor hr ht hp, Timer.beginWait, if_pos hn, if_pos hn, ← hidle]
    rfl
  case waits =>
    obtain ⟨p, hp⟩ := exists_divisor_of_legal h1 h5
    rw [opWaitTicks_of_divisor hr ht hp, Timer.beginWait, if_neg hn, if_neg hn]
    rfl

/-- Settles O10: the return is the one case of `wait_ticks` in which a wait is in progress and `WAITING` is 0 again. -/
theorem completedWaitReturnsToTheForeground : Obligations.CompletedWaitReturnsToTheForeground := by
  intro s n a b ps m hw ha
  rw [exec_waitTicks]
  exact opWaitTicks_of_completed hw ha

/-! ## The delays -/

section
variable {r : Role} {s : State}

theorem opDelay1s_of_ready (hr : (s.block r).ready = true) (ht : (s.block r).timer.ticks = 0) :
    opDelay1s r s = .next (s.setBlock r { s.block r with timer := (s.block r).timer.delaying 1 7811, act := .inWait }) :=
  opWaitTicks_of_divisor hr ht rfl

theorem opDelay15s_of_ready (hr : (s.block r).ready = true) (ht : (s.block r).timer.ticks = 0) :
    opDelay15s r s = .next (s.setBlock r { s.block r with timer := (s.block r).timer.delaying 2 58593, act := .inWait }) :=
  opWaitTicks_of_divisor hr ht rfl

/-- An expansion from an enabled foreground: its words come before those of the port, and the first one's transition is taken. -/
theorem runExpansion_of_ready (hr : (s.block r).ready = true) (i : Instr) (first : State → Result) :
    runExpansion r i first s =
      finishPort r (first (s.setBlock r { s.block r with port := opWords (expand i) ++ (s.block r).port })) :=
  if_pos hr

end

section
variable {s : State}

theorem exec_delay60s_of_ready (hr : (s.block s.cur).ready = true) (ht : (s.timer s.cur).ticks = 0) :
    exec .delay60s s = .next (s.setBlock s.cur { s.block s.cur with
      timer := (s.block s.cur).timer.delaying 2 58593, act := .inWait, opDone := false
      port := [0x40000E4E1B02#48, 0x40000E4E1B02#48, 0x40000E4E1B02#48, 0x40000E4E1B02#48] ++ (s.block s.cur).port }) := by
  show runExpansion s.cur .delay60s (opDelay15s s.cur) s = _
  rw [runExpansion_of_ready hr, opDelay15s_of_ready (by simpa [Block.ready] using hr) (by simpa using ht)]
  have hw : opWords (expand .delay60s) = [0x40000E4E1B02#48, 0x40000E4E1B02#48, 0x40000E4E1B02#48, 0x40000E4E1B02#48] := rfl
  simp [finishPort, Block.finishPort, hw]

theorem exec_delay3s_of_ready (hr : (s.block s.cur).ready = true) (ht : (s.timer s.cur).ticks = 0) :
    exec .delay3s s = .next (s.setBlock s.cur { s.block s.cur with
      timer := (s.block s.cur).timer.delaying 1 7811, act := .inWait, opDone := false
      port := [0x400001E83B01#48, 0x400001E83B01#48, 0x400001E83B01#48] ++ (s.block s.cur).port }) := by
  show runExpansion s.cur .delay3s (opDelay1s s.cur) s = _
  rw [runExpansion_of_ready hr, opDelay1s_of_ready (by simpa [Block.ready] using hr) (by simpa using ht)]
  have hw : opWords (expand .delay3s) = [0x400001E83B01#48, 0x400001E83B01#48, 0x400001E83B01#48] := rfl
  simp [finishPort, Block.finishPort, hw]

end

/-- Settles O12: each delay is its profile's `wait_ticks`, the long ones with the words of their expansion on the port. -/
theorem delaysBeginTheirProfiles : Obligations.DelaysBeginTheirProfiles := fun _ hr ht =>
  ⟨opDelay1s_of_ready hr ht, opDelay15s_of_ready hr ht, exec_delay60s_of_ready hr ht, exec_delay3s_of_ready hr ht⟩

/-- Settles O14: every arm is the one refusal of reserved words, whatever the state. -/
theorem reservedOperationsAreRefused : Obligations.ReservedOperationsAreRefused := fun _ =>
  ⟨rfl, rfl, rfl, rfl, rfl, rfl, rfl, rfl⟩

end Sys2Proof.Machine
end

section
/-! PROOFS. Runs of the counter and of the handler: the count events to the next firing in each mode, the clock events of one count
event, and the handler steps of a wait (rules R134 to R137). -/

namespace Sys2Proof.Machine

/-! ## The count events to the next firing -/

/-- How many count events lead to the next firing, the firing one included (rule R137). -/
def Timer.eventsToFiring (t : Timer) : Nat :=
  match t.mode with
  | .cmp => (t.compare - t.count).toNat + 1
  | .free => 65536 - t.count.toNat

section
variable {t : Timer}

theorem Timer.eventsToFiring_of_cmp (hm : t.mode = .cmp) : t.eventsToFiring = (t.compare - t.count).toNat + 1 := by
  simp only [Timer.eventsToFiring, hm]

theorem Timer.eventsToFiring_of_free (hm : t.mode = .free) : t.eventsToFiring = 65536 - t.count.toNat := by
  simp only [Timer.eventsToFiring, hm]

theorem Timer.eventsToFiring_of_fires (h : t.fires = true) : t.eventsToFiring = 1 := by
  cases hm : t.mode with
  | cmp =>
    rw [Timer.eventsToFiring_of_cmp hm, (Timer.fires_iff_of_cmp hm).1 h]
    simp
  | free =>
    rw [Timer.eventsToFiring_of_free hm, (Timer.fires_iff_of_free hm).1 h]
    rfl

/-- A count event that does not fire is one event nearer to the firing; in mode `CMP` the count may wrap on the way. -/
theorem Timer.eventsToFiring_of_not_fires (h : ¬t.fires = true) :
    t.eventsToFiring = { t with count := t.count + 1 }.eventsToFiring + 1 := by
  have hmode : t.mode = .cmp ∨ t.mode = .free := by cases t.mode <;> simp
  rcases hmode with hm | hm
  · have hne : t.count ≠ t.compare := mt (Timer.fires_iff_of_cmp hm).2 h
    rw [Timer.eventsToFiring_of_cmp hm, Timer.eventsToFiring_of_cmp (t := { t with count := t.count + 1 }) hm]
    bv_omega
  · have hne : t.count ≠ 65535 := mt (Timer.fires_iff_of_free hm).2 h
    rw [Timer.eventsToFiring_of_free hm, Timer.eventsToFiring_of_free (t := { t with count := t.count + 1 }) hm]
    bv_omega

theorem Timer.eventsToFiring_pos : 0 < t.eventsToFiring := by
  by_cases h : t.fires = true
  · rw [Timer.eventsToFiring_of_fires h]
    exact Nat.one_pos
  · rw [Timer.eventsToFiring_of_not_fires h]
    exact Nat.succ_pos _

end

/-- No count event before the last one fires, and the last one does. -/
theorem countEvents_eventsToFiring {n : Nat} {t : Timer} (hp : t.pending = false) (hn : t.eventsToFiring = n) :
    (∀ k < n, (countEvents k t).pending = false) ∧ countEvents n t = { t with count := 0, pending := true } := by
  induction n generalizing t with
  | zero => exact absurd hn (Nat.pos_iff_ne_zero.1 Timer.eventsToFiring_pos)
  | succ n ih =>
    by_cases h : t.fires = true
    · obtain rfl : n = 0 := by simpa [Timer.eventsToFiring_of_fires h] using hn.symm
      refine ⟨fun k hk => ?_, Timer.countEvent_of_fires h⟩
      obtain rfl : k = 0 := Nat.lt_one_iff.1 hk
      exact hp
    · have hnext : t.countEvent = { t with count := t.count + 1 } := Timer.countEvent_of_not_fires h
      obtain ⟨hbefore, hlast⟩ := ih (t := t.countEvent) (by rw [hnext]; exact hp)
        (by rw [Timer.eventsToFiring_of_not_fires h] at hn; rw [hnext]; exact Nat.succ.inj hn)
      refine ⟨fun k hk => ?_, ?_⟩
      · cases k with
        | zero => exact hp
        | succ k => exact hbefore k (Nat.lt_of_succ_lt_succ hk)
      · exact hlast.trans (by rw [hnext])

/-- Settles O17: by induction on the number of count events left. -/
theorem firingPeriodsOfTheModes : Obligations.FiringPeriodsOfTheModes := fun _ hp => countEvents_eventsToFiring hp rfl

/-! ## The clock events of one count event -/

/-- The last of several clock events taken apart, where the definition takes the first. -/
theorem clockEvents_succ (k : Nat) (t : Timer) : clockEvents (k + 1) t = (clockEvents k t).clockEvent := by
  induction k generalizing t with
  | zero => rfl
  | succ k ih => exact ih t.clockEvent

theorem clockEvents_add (k l : Nat) (t : Timer) : clockEvents (k + l) t = clockEvents l (clockEvents k t) := by
  induction l with
  | zero => rfl
  | succ l ih => rw [← Nat.add_assoc, clockEvents_succ, clockEvents_succ, ih]

section
variable {t : Timer} {p : Nat}

/-- Below the divisor the clock events only count in `PDIV`. -/
theorem clockEvents_lt_divisor (hr : t.run = true) (hp : divisor t.psel = some p) (hd : t.pdiv = 0) {k : Nat} (hk : k < p) :
    clockEvents k t = { t with pdiv := BitVec.ofNat 10 k } := by
  induction k with
  | zero =>
    show t = { t with pdiv := 0 }
    rw [← hd]
  | succ k ih =>
    obtain ⟨-, hp1024⟩ := divisor_pos hp
    have hmod : k % 2 ^ 10 = k := Nat.mod_eq_of_lt (by omega)
    rw [clockEvents_succ, ih (by omega), Timer.clockEvent_of_pdiv_ne (t := { t with pdiv := BitVec.ofNat 10 k }) hr hp
      (by rw [BitVec.toNat_ofNat]; omega)]
    simp [BitVec.ofNat_add]

/-- The `P(PSEL)`-th clock event from a cleared divider is the count event. -/
theorem clockEvents_divisor (hr : t.run = true) (hp : divisor t.psel = some p) (hd : t.pdiv = 0) :
    clockEvents p t = t.countEvent := by
  obtain ⟨hpos, hp1024⟩ := divisor_pos hp
  obtain ⟨k, rfl⟩ : ∃ k, p = k + 1 := ⟨p - 1, by omega⟩
  have hmod : k % 2 ^ 10 = k := Nat.mod_eq_of_lt (by omega)
  rw [clockEvents_succ, clockEvents_lt_divisor hr hp hd (Nat.lt_succ_self k),
    Timer.clockEvent_of_pdiv_last (t := { t with pdiv := BitVec.ofNat 10 k }) hr hp (by rw [BitVec.toNat_ofNat]; omega), ← hd]

end

/-- Settles O18: the divider counts below the divisor, and the clock event that reaches it counts. -/
theorem prescalerDividesTheClock : Obligations.PrescalerDividesTheClock := fun _ _ hr hp hd =>
  ⟨fun _ => clockEvents_lt_divisor hr hp hd, clockEvents_divisor hr hp hd⟩

/-! ## The handler steps of a wait -/

/-- What a completed wait leaves of its timer group (rule R267): disabled, with no firing pending and no tick. -/
structure Timer.WaitDone (t : Timer) : Prop where
  waiting : t.waiting = false
  ticks : t.ticks = 0
  run : t.run = false
  ie : t.ie = false
  pending : t.pending = false

theorem Timer.WaitDone.irqLine {t : Timer} (h : t.WaitDone) : t.irqLine = false :=
  Timer.irqLine_eq_false_iff.2 (.inl h.pending)

/-- The hardware alone leaves the timer of a completed wait as it is. -/
theorem Timer.WaitDone.timerRun_eq {t : Timer} (h : t.WaitDone) (turns : List TimerTurn) : timerRun turns t = (t, 0) := by
  induction turns with
  | nil => rfl
  | cons turn turns ih =>
    cases turn with
    | clk => rw [timerRun, Timer.clockEvent_of_stopped h.run, ih]
    | irq => simp [timerRun, Timer.takeInterrupt_of_irqLine_eq_false h.irqLine, ih, h.irqLine]

@[simp] theorem Timer.countEvent_wtarget (t : Timer) : t.countEvent.wtarget = t.wtarget := by
  unfold Timer.countEvent; split <;> rfl

@[simp] theorem Timer.clockEvent_wtarget (t : Timer) : t.clockEvent.wtarget = t.wtarget := by
  rcases t.clockEvent_cases with h | ⟨-, _, -, -, h⟩ | ⟨-, _, -, -, h⟩ <;> simp [h]

/-- A wait in progress whose firings are counted: `TICKS` has not reached `WTARGET` (rules R33 b, R134). -/
structure Timer.Counting (t : Timer) : Prop where
  waiting : t.waiting = true
  cb : t.cb = .tickInc
  below : t.ticks.toNat < t.wtarget.toNat

theorem Timer.Counting.clockEvent {t : Timer} (h : t.Counting) : t.clockEvent.Counting :=
  ⟨by simp [h.waiting], by simp [h.cb], by simpa using h.below⟩

/-- A turn of the handler in a wait: not enabled, one tick nearer to the target, or the last tick. -/
theorem Timer.Counting.takeInterrupt {t : Timer} (h : t.Counting) :
    (t.irqLine = false ∧ t.takeInterrupt = t)
    ∨ (t.irqLine = true ∧ t.takeInterrupt.Counting ∧ t.takeInterrupt.ticks.toNat = t.ticks.toNat + 1
      ∧ t.takeInterrupt.wtarget = t.wtarget)
    ∨ (t.irqLine = true ∧ t.takeInterrupt.WaitDone ∧ t.ticks.toNat + 1 = t.wtarget.toNat) := by
  have hbelow := h.below
  rcases t.takeInterrupt_cases with ⟨hoff, e⟩ | ⟨-, hnone, -⟩ | ⟨hq, hc, hn, e⟩ | ⟨hq, -, -, ht, e⟩
  · exact .inl ⟨hoff, e⟩
  · cases hnone.symm.trans h.cb
  · have hne : t.ticks + 1 ≠ t.wtarget := fun he => hn ⟨h.waiting, he⟩
    have hticks : (t.ticks + 1).toNat = t.ticks.toNat + 1 := by bv_omega
    rw [e]
    refine .inr (.inl ⟨hq, ⟨h.waiting, hc, ?_⟩, hticks, rfl⟩)
    show (t.ticks + 1).toNat < t.wtarget.toNat
    bv_omega
  · rw [e]
    exact .inr (.inr ⟨hq, ⟨rfl, rfl, rfl, rfl, rfl⟩, by bv_omega⟩)

/-- Under any turns of the clock and the handler a wait counts its handler steps in `TICKS`, until it has completed with the one that
reaches `WTARGET`. -/
theorem Timer.Counting.timerRun {t : Timer} (h : t.Counting) (turns : List TimerTurn) :
    ((timerRun turns t).1.waiting = true ∧ t.ticks.toNat + (timerRun turns t).2 < t.wtarget.toNat
      ∧ (timerRun turns t).1.ticks.toNat = t.ticks.toNat + (timerRun turns t).2)
    ∨ ((timerRun turns t).1.WaitDone ∧ t.ticks.toNat + (timerRun turns t).2 = t.wtarget.toNat) := by
  induction turns generalizing t with
  | nil => exact .inl ⟨h.waiting, h.below, rfl⟩
  | cons turn turns ih =>
    cases turn with
    | clk => simpa [Machine.timerRun] using ih h.clockEvent
    | irq =>
      rcases h.takeInterrupt with ⟨hoff, e⟩ | ⟨hq, hnext, hticks, htarget⟩ | ⟨hq, hdone, hlast⟩
      · simpa [Machine.timerRun, hoff, e] using ih h
      · have := ih hnext
        rw [hticks, htarget, Nat.add_right_comm] at this
        simpa [Machine.timerRun, hq, Nat.add_assoc] using this
      · exact .inr (by simpa [Machine.timerRun, hq, hdone.timerRun_eq] using ⟨hdone, hlast⟩)

/-- Settles O20: the wait counts from `TICKS` = 0, and rule R33 keeps it below its target at the start. -/
theorem waitTakesExactlyItsHandlerSteps : Obligations.WaitTakesExactlyItsHandlerSteps := by
  intro t turns hinv hw ht hc t' k
  have hzero : t.ticks.toNat = 0 := by rw [ht]; rfl
  have hcounting : t.Counting := ⟨hw, hc, BitVec.lt_def.1 (hinv.waitRuns hw).2⟩
  have hrun := hcounting.timerRun turns
  rw [hzero, Nat.zero_add] at hrun
  exact hrun.imp_right fun ⟨hdone, hk⟩ => ⟨hdone.waiting, hk, hdone.ticks, hdone.run, hdone.ie, hdone.pending⟩

end Sys2Proof.Machine
end

section
/-! PROOFS. What a turn of a unit's foreground can do outside its own registers, said once for every operation, shell step and
instruction: it pops at most the oldest byte of its queue, appends at most one byte to the peer's, touches nothing else of the peer, and
writes `STORE` only in the copy step of `cmd_setpw` (rules R34, R58, R71, R82). -/

namespace Sys2Proof.Machine

/-! ## The link -/

/-- What a unit's foreground does to the two queues and to its peer (rules R34, R82). -/
structure LinkEffect (r : Role) (s t : State) : Prop where
  own : (t.block r).rxq = (s.block r).rxq ∨ ∃ b, (s.block r).rxq = b :: (t.block r).rxq
  peer : ∃ q, t.block r.peer = { s.block r.peer with rxq := q }
    ∧ (q = (s.block r.peer).rxq ∨ ∃ b, q = (s.block r.peer).rxq ++ [b])

section
variable {r : Role} {s t : State}

/-- Both queues stand, and with them the peer. -/
theorem LinkEffect.of_still (hown : (t.block r).rxq = (s.block r).rxq) (hpeer : t.block r.peer = s.block r.peer) :
    LinkEffect r s t := ⟨.inl hown, ⟨_, hpeer, .inl rfl⟩⟩

theorem LinkEffect.of_pop {b : Byte} (hown : (s.block r).rxq = b :: (t.block r).rxq) (hpeer : t.block r.peer = s.block r.peer) :
    LinkEffect r s t := ⟨.inr ⟨b, hown⟩, ⟨_, hpeer, .inl rfl⟩⟩

theorem LinkEffect.of_send {b : Byte} (hown : (t.block r).rxq = (s.block r).rxq)
    (hpeer : t.block r.peer = { s.block r.peer with rxq := (s.block r.peer).rxq ++ [b] }) : LinkEffect r s t :=
  ⟨.inl hown, ⟨_, hpeer, .inr ⟨b, rfl⟩⟩⟩

theorem LinkEffect.setBlock {b : Block} (hown : b.rxq = (s.block r).rxq) : LinkEffect r s (s.setBlock r b) :=
  .of_still (by rw [State.block_setBlock, hown]) (State.block_setBlock_peer s r b)

theorem opConfigure_link {a b ps m} (h : opConfigure r a b ps m s = .next t) : LinkEffect r s t := by
  rcases opConfigure_next h with rfl | ⟨-, -, rfl⟩
  · exact .of_still rfl rfl
  · exact .setBlock rfl

theorem opRegisterCallback_link {fn} (h : opRegisterCallback r fn s = .next t) : LinkEffect r s t := by
  rcases opRegisterCallback_next h with rfl | ⟨-, rfl⟩
  · exact .of_still rfl rfl
  · exact .setBlock rfl

theorem opDisable_link (h : opDisable r s = .next t) : LinkEffect r s t := by
  rcases opDisable_next h with rfl | ⟨-, rfl⟩
  · exact .of_still rfl rfl
  · exact .setBlock rfl

theorem opWaitTicks_link {n a b ps m} (h : opWaitTicks r n a b ps m s = .next t) : LinkEffect r s t := by
  rcases opWaitTicks_next h with rfl | ⟨-, -, rfl⟩ | ⟨-, -, -, rfl⟩
  · exact .of_still rfl rfl
  · exact .setBlock rfl
  · exact .setBlock rfl

theorem opSendByte_link {b} (h : opSendByte r b s = .next t) : LinkEffect r s t := by
  rcases opSendByte_next h with rfl | ⟨-, rfl⟩
  · exact .of_still rfl rfl
  · exact .of_send (by simp) (State.block_setBlock _ _ _)

theorem opReceiveByte_link (h : opReceiveByte r s = .next t) : LinkEffect r s t := by
  rcases opReceiveByte_next h with rfl | ⟨-, -, rfl⟩ | ⟨-, b, rest, hq, rfl⟩
  · exact .of_still rfl rfl
  · exact .setBlock rfl
  · exact .of_pop (by rw [State.block_setBlock]; exact hq) (State.block_setBlock_peer _ _ _)

theorem opSendText_link {buf} (h : opSendText r buf s = .next t) : LinkEffect r s t := by
  rcases opSendText_next h with rfl | ⟨-, _, _, rfl⟩
  · exact .of_still rfl rfl
  · exact .of_send (by simp) (State.block_setBlock _ _ _)

theorem receiveTextByte_link (h : receiveTextByte r s = .next t) : LinkEffect r s t := by
  rcases receiveTextByte_next h with ⟨rfl, -⟩ | ⟨rest, hq, rfl⟩ | ⟨b, rest, p, -, hq, -, rfl⟩
  · exact .of_still rfl rfl
  · exact .of_pop (by rw [State.block_setBlock]; exact hq) (State.block_setBlock_peer _ _ _)
  · exact .of_pop (by rw [State.block_setBlock]; exact hq) (State.block_setBlock_peer _ _ _)

/-- A change of the unit's own registers before the transition does not matter to the link. -/
theorem LinkEffect.of_setBlock_before {b : Block} (h : LinkEffect r (s.setBlock r b) t) (hb : b.rxq = (s.block r).rxq) :
    LinkEffect r s t := by
  obtain ⟨hown, q, hpeer, hq⟩ := h
  rw [State.block_setBlock, hb] at hown
  rw [State.block_setBlock_peer] at hpeer hq
  exact ⟨hown, q, hpeer, hq⟩

theorem LinkEffect.setBlock_after {b : Block} (h : LinkEffect r s t) (hb : b.rxq = (t.block r).rxq) :
    LinkEffect r s (t.setBlock r b) := by
  obtain ⟨hown, q, hpeer, hq⟩ := h
  exact ⟨by rwa [State.block_setBlock, hb], q, by rwa [State.block_setBlock_peer], hq⟩

theorem opReceiveText_link (h : opReceiveText r s = .next t) : LinkEffect r s t := by
  rcases opReceiveText_next h with rfl | ⟨-, -, h⟩ | ⟨-, h⟩
  · exact .of_still rfl rfl
  · exact receiveTextByte_link h
  · exact (receiveTextByte_link h).of_setBlock_before rfl

end

/-! ## The whole effect outside the unit's own registers -/

/-- The copy step of `cmd_setpw` and its one write (rules R72, R194). -/
structure CopyStep (s t : State) : Prop where
  st : s.ctrlShell.st = .setpw
  step : s.ctrlShell.step = 2
  idx : s.ctrlShell.idx ≠ s.ctrl.pbuf.len
  store : t.store = s.store.write (storeAddr s.params s.ctrlShell.idx.toNat) (s.ctrl.pbuf.byte s.ctrlShell.idx.toNat)

/-- What a transition of a unit's foreground does outside the unit's own registers. -/
structure UnitEffect (r : Role) (s t : State) : Prop where
  link : LinkEffect r s t
  hmiShell : r = .ctrl → t.hmiShell = s.hmiShell
  store : t.store = s.store ∨ CopyStep s t

section
variable {r : Role} {s t u : State}

theorem UnitEffect.refl (r : Role) (s : State) : UnitEffect r s s := ⟨.of_still rfl rfl, fun _ => rfl, .inl rfl⟩

theorem HostEffect.unitEffect (h : HostEffect r s t) (hl : LinkEffect r s t) : UnitEffect r s t :=
  ⟨hl, fun _ => h.hmiShell, .inl h.store⟩

/-- What a shell does to its own registers, to the display and to the key matters to neither the link nor `STORE`. -/
theorem UnitEffect.then_shell (h : UnitEffect r s u) (hhmi : t.hmi = u.hmi) (hctrl : t.ctrl = u.ctrl) (hstore : t.store = u.store)
    (hshell : r = .ctrl → t.hmiShell = u.hmiShell) : UnitEffect r s t := by
  have hblock : ∀ q, t.block q = u.block q := fun q => by cases q; exacts [hhmi, hctrl]
  obtain ⟨⟨hown, q, hpeer, hq⟩, hh, hs⟩ := h
  refine ⟨⟨by rwa [hblock], q, by rwa [hblock], hq⟩, fun hr => (hshell hr).trans (hh hr), ?_⟩
  rw [hstore]
  exact hs.imp_right fun hc => ⟨hc.st, hc.step, hc.idx, hstore.trans hc.store⟩

/-- A shell step that issues an operation and then moves on. -/
theorem UnitEffect.of_afterOp {q : Role} {adv : State → State} {o : Result} (h : afterOp q adv o = .next t)
    (ho : ∀ {u}, o = .next u → UnitEffect r s u) (ha : ∀ u, UnitEffect r s u → UnitEffect r s (adv u)) : UnitEffect r s t := by
  obtain ⟨u, hu, rfl⟩ := afterOp_next h
  split
  · exact ha u (ho hu)
  · exact ho hu

theorem UnitEffect.ctrlGo (h : UnitEffect r s u) (st : CtrlState) (k : BitVec 5) : UnitEffect r s (u.ctrlGo st k) :=
  h.then_shell rfl rfl rfl fun _ => rfl

theorem UnitEffect.hmiGo (h : UnitEffect .hmi s u) (st : HmiState) (k : BitVec 5) : UnitEffect .hmi s (u.hmiGo st k) :=
  h.then_shell rfl rfl rfl nofun

/-! ## Host operations -/

theorem opWaitTicks_unitEffect {n a b ps m} (h : opWaitTicks r n a b ps m s = .next t) : UnitEffect r s t :=
  (opWaitTicks_effect h).unitEffect (opWaitTicks_link h)

theorem opDelay1s_unitEffect (h : opDelay1s r s = .next t) : UnitEffect r s t :=
  opWaitTicks_unitEffect (show opWaitTicks .. = _ from h)

theorem opDelay15s_unitEffect (h : opDelay15s r s = .next t) : UnitEffect r s t :=
  opWaitTicks_unitEffect (show opWaitTicks .. = _ from h)

theorem opSendByte_unitEffect {b} (h : opSendByte r b s = .next t) : UnitEffect r s t :=
  (opSendByte_effect h).unitEffect (opSendByte_link h)

theorem opSendText_unitEffect {buf} (h : opSendText r buf s = .next t) : UnitEffect r s t :=
  (opSendText_effect h).unitEffect (opSendText_link h)

theorem opReceiveText_unitEffect (h : opReceiveText r s = .next t) : UnitEffect r s t :=
  (opReceiveText_effect h).unitEffect (opReceiveText_link h)

theorem opRegisterCallback_unitEffect {fn} (h : opRegisterCallback r fn s = .next t) : UnitEffect r s t :=
  (opRegisterCallback_effect h).unitEffect (opRegisterCallback_link h)

/-! ## The control unit's shell -/

theorem dispatch_unitEffect {st} (h : dispatch st s = .next t) : UnitEffect .ctrl s t := by
  unfold dispatch at h
  split at h <;> cases h
  · exact .refl _ _
  next b rest hq => exact ⟨.of_pop hq rfl, fun _ => rfl, .inl rfl⟩

theorem setpwStep_unitEffect (hst : s.ctrlShell.st = .setpw) (h : setpwStep s = .next t) : UnitEffect .ctrl s t := by
  unfold setpwStep at h
  split at h
  · exact .of_afterOp h opReceiveText_unitEffect fun _ hu => hu.ctrlGo _ _
  · cases h
    exact (UnitEffect.refl _ s).then_shell rfl rfl rfl fun _ => rfl
  next hstep =>
    dsimp only at h
    split at h <;> cases h
    · exact (UnitEffect.refl _ s).ctrlGo _ _
    next hidx => exact ⟨.of_still rfl rfl, fun _ => rfl, .inr ⟨hst, BitVec.eq_of_toNat_eq hstep, hidx, rfl⟩⟩
  · cases h
    exact (UnitEffect.refl _ s).then_shell rfl rfl rfl fun _ => rfl
  · cases h
    exact .refl _ _

theorem verifyStep_unitEffect (h : verifyStep s = .next t) : UnitEffect .ctrl s t := by
  unfold verifyStep at h
  split at h
  · exact .of_afterOp h opReceiveText_unitEffect fun _ hu => hu.ctrlGo _ _
  · cases h
    exact (UnitEffect.refl _ s).then_shell rfl rfl rfl fun _ => rfl
  · dsimp only at h
    split at h <;> cases h
    · exact (UnitEffect.refl _ s).ctrlGo _ _
    · exact ⟨.of_still rfl rfl, fun _ => rfl, .inl rfl⟩
  · cases h
    exact ⟨.of_still rfl rfl, fun _ => rfl, .inl rfl⟩
  · exact .of_afterOp h opSendByte_unitEffect fun _ hu => hu.ctrlGo _ _
  · cases h
    exact .refl _ _

theorem openStep_unitEffect (h : openStep s = .next t) : UnitEffect .ctrl s t := by
  unfold openStep at h
  split at h
  case h_2 | h_4 | h_5 | h_6 | h_8 => exact .of_afterOp h opWaitTicks_unitEffect fun _ hu => hu.ctrlGo _ _
  all_goals
    cases h
    exact (UnitEffect.refl _ s).then_shell rfl rfl rfl fun _ => rfl

theorem lockStep_unitEffect (h : lockStep s = .next t) : UnitEffect .ctrl s t := by
  unfold lockStep at h
  split at h
  case h_2 | h_3 | h_4 | h_5 => exact .of_afterOp h opWaitTicks_unitEffect fun _ hu => hu.ctrlGo _ _
  all_goals
    cases h
    exact (UnitEffect.refl _ s).then_shell rfl rfl rfl fun _ => rfl

theorem commandStep_unitEffect {st own} (ho : s.ctrlShell.st = st → own s = .next t → UnitEffect .ctrl s t)
    (h : commandStep st own s = .next t) : UnitEffect .ctrl s t := by
  unfold commandStep at h
  split at h
  · split at h
    · split at h
      · exact dispatch_unitEffect h
      · cases h; exact .refl _ _
    · split at h
      next hst => exact ho hst h
      · cases h; exact .refl _ _
  · cases h; exact .refl _ _

/-! ## The HMI unit's shell -/

theorem responseStep_unitEffect {b msg decision} (hd : UnitEffect .hmi s (decision s))
    (h : responseStep b msg decision s = .next t) : UnitEffect .hmi s t := by
  unfold responseStep at h
  split at h
  · split at h
    · unfold takeResponse at h
      split at h <;> cases h
      · exact .refl _ _
      next hq => exact ⟨.of_pop hq rfl, nofun, .inl rfl⟩
    · cases h
      exact (UnitEffect.refl _ s).then_shell rfl rfl rfl nofun
    · exact .of_afterOp h opWaitTicks_unitEffect fun _ hu => hu.hmiGo _ _
    · cases h; exact hd
    · cases h; exact .refl _ _
  · cases h; exact .refl _ _

theorem decideMatch_unitEffect (s : State) : UnitEffect .hmi s (decideMatch s) := by
  unfold decideMatch
  split <;> exact (UnitEffect.refl _ s).hmiGo _ _

theorem decideFail_unitEffect (s : State) : UnitEffect .hmi s (decideFail s) := by
  unfold decideFail
  dsimp only
  split_ifs <;> exact (UnitEffect.refl _ s).then_shell rfl rfl rfl nofun

theorem choiceStep_unitEffect (h : choiceStep s = .next t) : UnitEffect .hmi s t := by
  unfold choiceStep at h
  split at h
  · cases h; exact .refl _ _
  · dsimp only at h
    split_ifs at h <;> cases h <;> exact (UnitEffect.refl _ s).then_shell rfl rfl rfl nofun

@[simp] theorem Block.setText_rxq (b : Block) (buf : BufSel) (t : Text) : (b.setText buf t).rxq = b.rxq := by cases buf <;> rfl

theorem captureStep_unitEffect {buf prompt adv} (ha : ∀ u, UnitEffect .hmi s u → UnitEffect .hmi s (adv u))
    (h : captureStep buf prompt adv s = .next t) : UnitEffect .hmi s t := by
  have hown {v : State} (hq : v.hmi.rxq = s.hmi.rxq) (hc : v.ctrl = s.ctrl) (hs : v.store = s.store) : UnitEffect .hmi s v :=
    ⟨.of_still hq hc, nofun, .inl hs⟩
  unfold captureStep at h
  dsimp only at h
  split at h
  · cases h
    exact hown (Block.setText_rxq _ _ _) rfl rfl
  · split at h
    · cases h; exact .refl _ _
    · split at h
      · cases h
        exact ha _ (hown (Block.setText_rxq _ _ _) rfl rfl)
      · split at h <;> cases h
        exact hown (Block.setText_rxq _ _ _) rfl rfl
  all_goals
    cases h
    exact .refl _ _

/-- The cases are the rows of the step tables in the order of `hmiShellStep`. -/
theorem hmiShellStep_unitEffect (h : hmiShellStep s = .next t) : UnitEffect .hmi s t := by
  unfold hmiShellStep at h
  split at h
  case h_2 => exact choiceStep_unitEffect h
  case h_3 | h_24 | h_25 => exact captureStep_unitEffect (fun _ hu => hu.hmiGo _ _) h
  case h_4 | h_7 | h_13 | h_28 => exact .of_afterOp h opSendByte_unitEffect fun _ hu => hu.hmiGo _ _
  case h_5 | h_29 => exact .of_afterOp h opSendText_unitEffect fun _ hu => hu.hmiGo _ _
  case h_6 | h_17 | h_19 | h_21 | h_27 | h_31 | h_9 | h_10 | h_11 | h_12 | h_15 | h_23 =>
    exact .of_afterOp h opWaitTicks_unitEffect fun _ hu => hu.hmiGo _ _
  case h_26 => split at h <;> cases h <;> exact (UnitEffect.refl _ s).then_shell rfl rfl rfl nofun
  all_goals
    cases h
    exact (UnitEffect.refl _ s).then_shell rfl rfl rfl nofun

/-! ## Every instruction and every turn -/

/-- The unit an instruction acts on: a host operation's is the moving one (entry 1). -/
def actorOf (cur : Role) (i : Instr) : Role :=
  match i.stream with
  | .opw => cur
  | .cmd => .ctrl
  | .rsp => .hmi

theorem finishPort_unitEffect {o : Result} (h : finishPort r o = .next t) (ho : ∀ {u}, o = .next u → UnitEffect r s u) :
    UnitEffect r s t := by
  obtain ⟨u, hu, rfl⟩ := finishPort_next h
  obtain ⟨hl, hh, hs⟩ := ho hu
  refine ⟨hl.setBlock_after (Block.finishPort_rxq _), fun hr => (State.setBlock_hmiShell _ _ _).trans (hh hr), ?_⟩
  rw [State.setBlock_store]
  exact hs.imp_right fun hc => ⟨hc.st, hc.step, hc.idx, (State.setBlock_store _ _ _).trans hc.store⟩

theorem runExpansion_unitEffect {i first} (hf : ∀ {u v}, first u = .next v → HostEffect r u v)
    (hl : ∀ {u v}, first u = .next v → LinkEffect r u v) (h : runExpansion r i first s = .next t) : UnitEffect r s t := by
  unfold runExpansion at h
  split at h
  · refine finishPort_unitEffect h fun hu => ⟨(hl hu).of_setBlock_before rfl, fun _ => ?_, .inl ?_⟩
    · exact (hf hu).hmiShell.trans (State.setBlock_hmiShell _ _ _)
    · exact (hf hu).store.trans (State.setBlock_store _ _ _)
  · cases h; exact .refl _ _

theorem exec_unitEffect {i : Instr} (h : exec i s = .next t) : UnitEffect (actorOf s.cur i) s t := by
  cases i with
  | configure a b ps m => exact (opConfigure_effect h).unitEffect (opConfigure_link h)
  | registerCallback fn => exact opRegisterCallback_unitEffect h
  | disable => exact (opDisable_effect h).unitEffect (opDisable_link h)
  | waitTicks n a b ps m => exact opWaitTicks_unitEffect h
  | sendByte b => exact opSendByte_unitEffect h
  | receiveByte => exact (opReceiveByte_effect h).unitEffect (opReceiveByte_link h)
  | sendText buf => exact opSendText_unitEffect h
  | receiveText => exact opReceiveText_unitEffect h
  | cmdSetpw => exact commandStep_unitEffect setpwStep_unitEffect h
  | cmdVerify => exact commandStep_unitEffect (fun _ => verifyStep_unitEffect) h
  | cmdOpen => exact commandStep_unitEffect (fun _ => openStep_unitEffect) h
  | cmdLock => exact commandStep_unitEffect (fun _ => lockStep_unitEffect) h
  | cmdIgnored b =>
    simp only [exec, execCmdIgnored] at h
    split at h
    · exact dispatch_unitEffect h
    · cases h; exact .refl _ _
  | rspMatch => exact responseStep_unitEffect (decideMatch_unitEffect s) h
  | rspNomatch b => exact responseStep_unitEffect (decideFail_unitEffect s) h
  | delay1s => exact opDelay1s_unitEffect h
  | delay15s => exact opDelay15s_unitEffect h
  | delay60s => exact runExpansion_unitEffect opDelay15s_effect (fun hv => (opDelay15s_unitEffect hv).link) h
  | delay3s => exact runExpansion_unitEffect opDelay1s_effect (fun hv => (opDelay1s_unitEffect hv).link) h
  | sendFrame op buf => exact runExpansion_unitEffect opSendByte_effect opSendByte_link h
  | _ => cases h

theorem decodeOpw_stream (w : Opw) : (decodeOpw w).stream = .opw := by
  unfold decodeOpw
  split <;> rfl

theorem decodeRsp_stream (b : Byte) : (decodeRsp b).stream = .rsp := by
  unfold decodeRsp
  split <;> rfl

theorem ctrlInstr_stream {i : Instr} (h : ctrlInstr s = some i) : i.stream = .cmd := by
  unfold ctrlInstr at h
  split at h
  · obtain ⟨b, -, rfl⟩ := Option.map_eq_some_iff.1 h
    exact decodeCmd_stream b
  all_goals
    cases h
    rfl

theorem hmiInstr_stream {i : Instr} (h : hmiInstr s = some i) : i.stream = .rsp := by
  unfold hmiInstr at h
  split_ifs at h
  · obtain ⟨b, -, rfl⟩ := Option.map_eq_some_iff.1 h
    exact decodeRsp_stream b
  · cases h
    exact decodeRsp_stream _

theorem shellStep_unitEffect (h : shellStep r s = .next t) : UnitEffect r s t := by
  unfold shellStep at h
  split at h <;> split at h
  next i hi =>
    have he := exec_unitEffect h
    rwa [actorOf, ctrlInstr_stream hi] at he
  · cases h; exact .refl _ _
  next i hi =>
    have he := exec_unitEffect h
    rwa [actorOf, hmiInstr_stream hi] at he
  · exact hmiShellStep_unitEffect h

theorem bootStep_unitEffect (h : bootStep r s = .next t) : UnitEffect r s t := by
  unfold bootStep at h
  split at h
  · refine .of_afterOp h opRegisterCallback_unitEffect fun u hu => ?_
    refine hu.then_shell (State.setBooted_hmi _ _) (State.setBooted_ctrl _ _) (State.setBooted_store _ _) ?_
    rintro rfl
    rfl
  · cases h; exact .refl _ _

/-- A turn of either foreground, of the shell or of firmware on the port. -/
theorem foregroundStep_unitEffect (hcur : s.cur = r) (h : foregroundStep r s = .next t) : UnitEffect r s t := by
  unfold foregroundStep at h
  split at h
  · cases h; exact .refl _ _
  · split at h
    next w ws _ =>
      refine finishPort_unitEffect h fun hu => ?_
      have he := exec_unitEffect hu
      rwa [actorOf, decodeOpw_stream, hcur] at he
    · split at h
      · cases h; exact .refl _ _
      · split at h
        · exact shellStep_unitEffect h
        · exact bootStep_unitEffect h

end

end Sys2Proof.Machine
end

section
/-! PROOFS. What one turn of any agent does to the queues, to `STORE` and to a timer group, and from it the safety of a wait: blocked
foregrounds, ticks that only the handler counts, and a wait without a callback that never ends (rules R31, R58, R71, R82, R134). -/

namespace Sys2Proof.Machine

theorem Role_eq_or_peer (q r : Role) : q = r ∨ q = r.peer := by cases q <;> cases r <;> simp [Role.peer]

/-! ## Turns that are no foreground's -/

@[simp] theorem supplyKey_block (k : Byte) (s : State) (r : Role) : (supplyKey k s).block r = s.block r := by
  unfold supplyKey
  split <;> cases r <;> rfl

@[simp] theorem supplyKey_store (k : Byte) (s : State) : (supplyKey k s).store = s.store := by
  unfold supplyKey
  split <;> rfl

@[simp] theorem presentWord_store (r : Role) (w : Opw) (s : State) : (presentWord r w s).store = s.store := by
  simp only [presentWord]
  split <;> simp

theorem presentWord_block_of_ne {r q : Role} (h : q ≠ r) (w : Opw) (s : State) : (presentWord r w s).block q = s.block q := by
  simp only [presentWord]
  split
  · exact State.block_setBlock_ne _ _ h
  · rfl

@[simp] theorem presentWord_rxq (r q : Role) (w : Opw) (s : State) : ((presentWord r w s).block q).rxq = (s.block q).rxq := by
  simp only [presentWord]
  split
  · rcases Role_eq_or_peer q r with rfl | rfl <;> simp
  · rfl

theorem State.resetUnit_block_of_ne (s : State) {r q : Role} (h : q ≠ r) (f : Foreground) : (s.resetUnit r f).block q = s.block q := by
  obtain rfl : q = r.peer := (Role_eq_or_peer q r).resolve_left h
  exact State.resetUnit_block_peer s r f

/-- A turn of a unit's foreground, with what it does outside the unit's registers. -/
theorem takeTurn_fg_unitEffect {r : Role} {s t : State} (h : takeTurn (.fg r) s = .next t) : UnitEffect r { s with cur := r } t :=
  foregroundStep_unitEffect rfl h

/-! ## The queues -/

theorem takeTurn_rxq_of_quiet {e : Event} {r : Role} {s t : State} (h : takeTurn e s = .next t) (hown : e ≠ .fg r)
    (hpeer : e ≠ .fg r.peer) (hreset : ∀ f, e ≠ .reset r f) : (t.block r).rxq = (s.block r).rxq := by
  cases e with
  | fg q =>
    rcases Role_eq_or_peer q r with rfl | rfl
    · exact absurd rfl hown
    · exact absurd rfl hpeer
  | clk q | irq q =>
    cases h
    rcases Role_eq_or_peer r q with rfl | rfl <;> simp
  | key k => cases h; simp
  | present q w => cases h; simp
  | reset q f =>
    cases h
    rw [State.resetUnit_block_of_ne]
    rintro rfl
    exact hreset f rfl

/-- Settles O32: the two foregrounds by what they do to the link, every other turn by its frame. -/
theorem linkPopsItsOldestAndAppendsAtItsEnd : Obligations.LinkPopsItsOldestAndAppendsAtItsEnd := by
  intro s t r e rest ha h q q'
  rw [step_of_agenda ha] at h
  refine ⟨?own, ?peer, ?reset, fun h1 h2 h3 => ?quiet⟩
  case own =>
    rintro rfl
    have hl := (takeTurn_fg_unitEffect h).link.own
    cases r <;> exact hl
  case peer =>
    rintro rfl
    obtain ⟨p, hp, hq⟩ := (takeTurn_fg_unitEffect h).link.peer
    rw [Role_peer_peer] at hp hq
    have hq' : q' = p := congrArg Block.rxq hp
    rw [hq']
    cases r <;> exact hq
  case reset =>
    rintro f rfl
    cases h
    exact congrArg Block.rxq (State.resetUnit_block _ r f)
  case quiet =>
    have hs := takeTurn_rxq_of_quiet h h1 h2 h3
    cases r <;> exact hs

/-! ## `STORE` -/

theorem takeTurn_store {e : Event} {s t : State} (h : takeTurn e s = .next t) : t.store = s.store ∨ CopyStep s t := by
  cases e with
  | fg r => exact (takeTurn_fg_unitEffect h).store.imp_right fun hc => ⟨hc.st, hc.step, hc.idx, hc.store⟩
  | clk r | irq r => cases h; exact .inl (State.setBlock_store _ _ _)
  | key k => cases h; exact .inl (supplyKey_store k s)
  | present r w => cases h; exact .inl (presentWord_store r w s)
  | reset r f => cases h; exact .inl (State.resetUnit_store s r f)

/-- A step is one agent's turn, in the state in which the schedule has moved on. -/
theorem step_eq_takeTurn (s : State) : ∃ e agenda turns, step s = takeTurn e { s with agenda := agenda, turns := turns } := by
  unfold step nextTransition nextTransitionBy
  split
  next e rest _ => exact ⟨e, rest, s.turns, rfl⟩
  · exact ⟨_, s.agenda, s.turns + 1, rfl⟩

/-- Settles O42: every turn leaves `STORE` alone or is the copy step. -/
theorem onlySetpwWritesTheStore : Obligations.OnlySetpwWritesTheStore := by
  intro s t h hne
  obtain ⟨e, agenda, turns, hturn⟩ := step_eq_takeTurn s
  rw [hturn] at h
  obtain ⟨hst, hstep, hidx, hstore⟩ := (takeTurn_store h).resolve_left hne
  exact ⟨hst, hstep, hidx, hstore⟩

/-! ## A blocked foreground -/

theorem Block.ready_of_waiting {b : Block} (h : b.timer.waiting = true) : b.ready = false := by simp [Block.ready, h]

section
variable {r : Role} {s : State}

theorem foregroundStep_of_waiting (hw : (s.block r).timer.waiting = true) : foregroundStep r s = .next s := if_pos hw

theorem runExpansion_of_waiting (hw : (s.block r).timer.waiting = true) (i : Instr) (first : State → Result) :
    runExpansion r i first s = .next s := if_neg (by simp [Block.ready_of_waiting hw])

/-- Every operation a foreground issues asks first whether a wait is in progress. -/
theorem exec_issued_of_waiting (hw : (s.block s.cur).timer.waiting = true) {i : Instr} (hi : isIssued i = true) :
    exec i s = .next s := by
  have hr : ¬(s.block s.cur).ready = true := by simp [Block.ready_of_waiting hw]
  cases i with
  | configure a b ps m => exact if_neg hr
  | registerCallback fn => exact if_neg hr
  | disable => exact if_neg hr
  | waitTicks n a b ps m => exact opWaitTicks_of_waiting hw
  | sendByte b => exact if_neg hr
  | receiveByte => exact if_pos hw
  | sendText buf => exact if_pos hw
  | receiveText => exact if_pos hw
  | delay1s => exact if_pos hw
  | delay15s => exact if_pos hw
  | delay60s => exact runExpansion_of_waiting hw _ _
  | delay3s => exact runExpansion_of_waiting hw _ _
  | sendFrame op buf => exact runExpansion_of_waiting hw _ _
  | _ => cases hi

theorem commandStep_of_disabled (h : s.ctrlEnabled = false) (st : CtrlState) (own : State → Result) :
    commandStep st own s = .next s := if_neg (by simp [h])

theorem exec_cmd_of_waiting (hw : s.ctrl.timer.waiting = true) {i : Instr} (hi : i.stream = .cmd) : exec i s = .next s := by
  have hd : s.ctrlEnabled = false := by simp [State.ctrlEnabled, hw]
  cases i with
  | cmdSetpw => exact commandStep_of_disabled hd .setpw setpwStep
  | cmdVerify => exact commandStep_of_disabled hd .verify verifyStep
  | cmdOpen => exact commandStep_of_disabled hd .open openStep
  | cmdLock => exact commandStep_of_disabled hd .lock lockStep
  | cmdIgnored b => exact if_neg (by simp [hd])
  | _ => cases hi

theorem exec_rsp_of_waiting (hw : s.hmi.timer.waiting = true) {i : Instr} (hi : i.stream = .rsp) : exec i s = .next s := by
  have hd : s.hmiEnabled = false := by simp [State.hmiEnabled, hw]
  cases i with
  | rspMatch => exact if_neg (by simp [hd])
  | rspNomatch b => exact if_neg (by simp [hd])
  | _ => cases hi

end

/-- Settles O11: the foreground's turn, then each stream's instructions, by the test of `WAITING` each begins with. -/
theorem noOperationWhileWaiting : Obligations.NoOperationWhileWaiting := by
  refine ⟨fun s r rest ha hw => ?turn, fun _ _ hi hw => exec_issued_of_waiting hw hi, fun _ _ hi hw => exec_cmd_of_waiting hw hi,
    fun _ _ hi hw => exec_rsp_of_waiting hw hi⟩
  case turn =>
    rw [step_of_agenda ha]
    exact foregroundStep_of_waiting (s := s.turn r rest) (by simpa using hw)

/-! ## The timer group of a unit -/

theorem Timer.ForegroundMove.ticks_eq {t u : Timer} (h : t.ForegroundMove u) : u.ticks = t.ticks := by
  cases h with
  | same | arm | register | disable => rfl
  | beginWait hw ht n a b m hp =>
    unfold Timer.beginWait
    split
    · exact ht.symm
    · rfl

theorem State.setTimer_timer (s : State) (r q : Role) (t : Timer) : (s.setTimer q t).timer r = if q = r then t else s.timer r := by
  cases q <;> cases r <;> rfl

/-- The timer group of a waiting unit after any agent's turn: its own foreground is blocked, and the peer's reaches only the queue. -/
theorem takeTurn_waiting_timer {e : Event} {r : Role} {s t : State} (hw : (s.timer r).waiting = true)
    (h : takeTurn e s = .next t) :
    t.timer r = match e with
      | .clk q => if q = r then (s.timer r).clockEvent else s.timer r
      | .irq q => if q = r then (s.timer r).takeInterrupt else s.timer r
      | .reset q _ => if q = r then Timer.reset else s.timer r
      | .fg _ | .key _ | .present _ _ => s.timer r := by
  cases e with
  | fg q =>
    rcases Role_eq_or_peer q r with rfl | rfl
    · have hblocked : takeTurn (.fg q) s = .next { s with cur := q } :=
        foregroundStep_of_waiting (s := { s with cur := q }) (by cases q <;> exact hw)
      cases hblocked.symm.trans h
      cases q <;> rfl
    · obtain ⟨p, hp, -⟩ := (takeTurn_fg_unitEffect h).link.peer
      rw [Role_peer_peer] at hp
      have ht : (t.block r).timer = _ := congrArg Block.timer hp
      exact ht.trans (by cases r <;> rfl)
  | clk q =>
    cases h
    rw [State.setTimer_timer]
    by_cases hq : q = r
    · subst hq; rfl
    · simp only [if_neg hq]
  | irq q =>
    cases h
    rw [State.setTimer_timer]
    by_cases hq : q = r
    · subst hq; rfl
    · simp only [if_neg hq]
  | key k => cases h; rw [supplyKey_timer]
  | present q w => cases h; rw [presentWord_timer]
  | reset q f =>
    cases h
    cases q <;> cases r <;> rfl

/-- Settles O22: the turn of the agenda's first event, in the waiting unit's timer group. -/
theorem waitingTimerChangesOnlyByItsOwnTurns : Obligations.WaitingTimerChangesOnlyByItsOwnTurns := by
  intro s t r e rest ha hw h
  rw [step_of_agenda ha] at h
  have ht := takeTurn_waiting_timer (r := r) (by cases r <;> exact hw) h
  rw [ht]
  cases r <;> cases e <;> rfl

theorem takeTurn_ticks {e : Event} {r : Role} {s t : State} (h : takeTurn e s = .next t) (hirq : e ≠ .irq r)
    (hreset : ∀ f, e ≠ .reset r f) : (t.timer r).ticks = (s.timer r).ticks := by
  cases e with
  | fg q => exact (foregroundStep_foreground q { s with cur := q } t h r).ticks_eq.trans (by cases r <;> rfl)
  | clk q =>
    cases h
    rw [State.setTimer_timer]
    split
    next hq => subst hq; simp
    · rfl
  | irq q =>
    cases h
    rw [State.setTimer_timer, if_neg (fun hq => hirq (by rw [hq]))]
  | key k => cases h; rw [supplyKey_timer]
  | present q w => cases h; rw [presentWord_timer]
  | reset q f =>
    cases h
    have hq : r ≠ q := fun hq => hreset f (by rw [hq])
    exact congrArg (·.timer.ticks) (State.resetUnit_block_of_ne s hq f)

/-- Settles O23: a foreground can only clear ticks that are 0 already, and no other agent but the handler and the reset writes them. -/
theorem onlyTheHandlerChangesTicks : Obligations.OnlyTheHandlerChangesTicks := by
  intro s t r e rest ha h hirq hreset
  rw [step_of_agenda ha] at h
  exact (takeTurn_ticks h hirq hreset).trans (by cases r <;> rfl)

/-! ## A wait without a callback -/

/-- A step that the agenda fixes takes its first event away. -/
theorem step_agenda {s t : State} {e : Event} {rest : List Event} (ha : s.agenda = e :: rest) (h : step s = .next t) :
    t.agenda = rest := by
  have hs := congrArg Prod.fst (nextTransitionBy_schedule h)
  rw [ha] at hs
  exact hs

/-- Runs along the agenda: what a step of each of its events keeps, the run keeps. -/
theorem run_keeps {P : State → Prop} {good : Event → Prop}
    (hstep : ∀ s t e rest, s.agenda = e :: rest → good e → P s → step s = .next t → P t) :
    ∀ {k : Nat} {s t : State}, k ≤ s.agenda.length → (∀ e ∈ s.agenda, good e) → P s → Host.Core.run core k s = .next t → P t := by
  intro k
  induction k with
  | zero =>
    intro s t _ _ hs h
    cases h
    exact hs
  | succ k ih =>
    intro s t hk hgood hs h
    obtain ⟨e, rest, ha⟩ : ∃ e rest, s.agenda = e :: rest := List.exists_cons_of_length_pos (by omega)
    simp only [Host.Core.run] at h
    split at h
    next u hu =>
      rw [ha] at hk hgood
      have hrest : u.agenda = rest := step_agenda ha hu
      refine ih (by rw [hrest]; simpa using hk) (fun e' he' => hgood e' (List.mem_cons_of_mem _ (hrest ▸ he'))) ?_ h
      exact hstep s u e rest ha (hgood e List.mem_cons_self) hs hu
    · cases h
    · cases h

/-- A wait with no callback, the ticks as they stand (rule R134 c). -/
structure Timer.Hung (ticks : Tick) (t : Timer) : Prop where
  waiting : t.waiting = true
  cb : t.cb = .none
  ticks : t.ticks = ticks

/-- The clock counts no tick, and the handler drops the firing. -/
theorem Timer.Hung.clockEvent {n : Tick} {t : Timer} (h : t.Hung n) : t.clockEvent.Hung n :=
  ⟨by simp [h.waiting], by simp [h.cb], by simp [h.ticks]⟩

theorem Timer.Hung.takeInterrupt {n : Tick} {t : Timer} (h : t.Hung n) : t.takeInterrupt.Hung n := by
  cases hq : t.irqLine
  · rw [Timer.takeInterrupt_of_irqLine_eq_false hq]
    exact h
  · rw [Timer.takeInterrupt_of_no_callback hq h.cb]
    exact ⟨h.waiting, h.cb, h.ticks⟩

theorem step_keeps_hung {n : Tick} {r : Role} {s t : State} {e : Event} {rest : List Event} (ha : s.agenda = e :: rest)
    (he : ∀ f, e ≠ .reset r f) (hs : (s.timer r).Hung n) (h : step s = .next t) : (t.timer r).Hung n := by
  rw [waitingTimerChangesOnlyByItsOwnTurns s t r e rest ha hs.waiting h]
  cases e with
  | fg | key | present => exact hs
  | clk q =>
    dsimp only
    split
    · exact hs.clockEvent
    · exact hs
  | irq q =>
    dsimp only
    split
    · exact hs.takeInterrupt
    · exact hs
  | reset q f =>
    dsimp only
    rw [if_neg (fun hq => he f (by rw [hq]))]
    exact hs

/-- Settles O21: each event of the agenda keeps the wait hung, so the run does. -/
theorem waitWithoutCallbackNeverEnds : Obligations.WaitWithoutCallbackNeverEnds := by
  intro r k s t hw hc hk hreset hrun
  have hgood : ∀ e ∈ s.agenda, ∀ f, e ≠ .reset r f := fun e he f hef => hreset f (hef ▸ he)
  obtain ⟨hw', hc', ht'⟩ := run_keeps (P := fun u => (u.timer r).Hung (s.timer r).ticks)
    (fun _ _ _ _ ha he hs h => step_keeps_hung ha he hs h) hk hgood ⟨hw, hc, rfl⟩ hrun
  exact ⟨hw', hc', ht'⟩

end Sys2Proof.Machine
end

section
/-! PROOFS. The invariants of the whole system (rules R33, R36, R37, R39, R40, R42 to R44, R70, R303): they hold at reset, and the turn
of every agent keeps them. -/

namespace Sys2Proof.Machine

/-! ## One part of the system replaced -/

section
variable {s : State}

theorem State.Inv.with_ctrlShell (hi : s.Inv) {c : CtrlShell} (hc : c.Inv s.ctrl) : State.Inv { s with ctrlShell := c } :=
  { hi with ctrlShell := hc }

theorem State.Inv.with_hmiShell (hi : s.Inv) {h : HmiShell} (hh : h.Inv s.hmi) : State.Inv { s with hmiShell := h } :=
  { hi with hmiShell := hh }

/-- What the invariants of a unit's shell ask of its registers, where the copy loop's bound is left alone. -/
theorem CtrlShell.Inv.of_block {c : CtrlShell} {b b' : Block} (hi : c.Inv b) (hfore : b'.fore = b.fore)
    (hcb : b.timer.cb = .tickInc → b'.timer.cb = .tickInc) (hlen : c.st = .setpw → c.step = 2 → b'.pbuf.len = b.pbuf.len) :
    c.Inv b' :=
  { hi with
    booted := fun h => ⟨hfore.trans (hi.booted h).1, hcb (hi.booted h).2⟩
    copyIdx := fun hst hstep => by rw [hlen hst hstep]; exact hi.copyIdx hst hstep }

theorem HmiShell.Inv.of_block {h : HmiShell} {b b' : Block} (hi : h.Inv b) (hfore : b'.fore = b.fore)
    (hcb : b.timer.cb = .tickInc → b'.timer.cb = .tickInc) : h.Inv b' :=
  { hi with booted := fun hb => ⟨hfore.trans (hi.booted hb).1, hcb (hi.booted hb).2⟩ }

/-- One unit replaced by one that keeps the unit's invariants, its foreground, its callback and its `PLEN`. -/
theorem State.Inv.setBlock (hi : s.Inv) {r : Role} {b : Block} (hb : b.Inv) (hfore : b.fore = (s.block r).fore)
    (hcb : (s.block r).timer.cb = .tickInc → b.timer.cb = .tickInc) (hlen : b.pbuf.len = (s.block r).pbuf.len) :
    (s.setBlock r b).Inv := by
  cases r with
  | hmi => exact { hi with hmi := hb, hmiShell := hi.hmiShell.of_block hfore hcb }
  | ctrl => exact { hi with ctrl := hb, ctrlShell := hi.ctrlShell.of_block hfore hcb fun _ _ => hlen }

theorem State.Inv.block (hi : s.Inv) (r : Role) : (s.block r).Inv := by
  cases r
  · exact hi.hmi
  · exact hi.ctrl

end

/-! ## The control unit's shell -/

/-- The control unit's shell moved to a place, its outputs as that place has them (rules R43, R44). -/
def State.ctrlTo (s : State) (st : CtrlState) (k : BitVec 5) : State :=
  { s with ctrlShell := { s.ctrlShell with st := st, step := k, motor := motorAt st k, alarm := alarmAt st k } }

theorem step_eq_ofNat {k : BitVec 5} {n : Nat} (h : k.toNat = n) : k = BitVec.ofNat 5 n := by simp [← h]

/-- A place in the step tables that is no loop with a running index (rules R39, R194, R196). -/
abbrev plainPlace (st : CtrlState) (k : BitVec 5) : Prop := k.toNat ≤ st.lastStep ∧ ¬((st = .setpw ∨ st = .verify) ∧ k = 2)

/-- Two places with the same outputs. -/
abbrev sameOutputs (st : CtrlState) (k : BitVec 5) (st' : CtrlState) (k' : BitVec 5) : Prop :=
  motorAt st k = motorAt st' k' ∧ alarmAt st k = alarmAt st' k'

section
variable {s t : State} {st st' : CtrlState} {k k' : BitVec 5}

theorem State.Inv.ctrlTo (hi : s.Inv) (hb : s.ctrlShell.booted = true) (hp : plainPlace st k) : (s.ctrlTo st k).Inv :=
  hi.with_ctrlShell
    { stepBound := hp.1
      booted := hi.ctrlShell.booted
      entry := fun h => absurd (hb.symm.trans h) nofun
      pwlen := hi.ctrlShell.pwlen
      copyIdx := fun h2 h3 => absurd ⟨.inl h2, h3⟩ hp.2
      readIdx := fun h2 h3 => absurd ⟨.inr h2, h3⟩ hp.2
      motor := rfl
      alarm := rfl }

/-- A step that writes no output, between places with the same outputs. -/
theorem State.Inv.ctrlGo_eq (hi : s.Inv) (hst : s.ctrlShell.st = st) (hk : s.ctrlShell.step = k) (ho : sameOutputs st k st' k') :
    s.ctrlGo st' k' = s.ctrlTo st' k' := by
  have hm : s.ctrlShell.motor = motorAt st' k' := by rw [hi.ctrlShell.motor, hst, hk, ho.1]
  have ha : s.ctrlShell.alarm = alarmAt st' k' := by rw [hi.ctrlShell.alarm, hst, hk, ho.2]
  simp only [State.ctrlGo, State.ctrlTo, ← hm, ← ha]

theorem State.Inv.setMotor_ctrlGo_eq (hi : s.Inv) (hst : s.ctrlShell.st = st) (hk : s.ctrlShell.step = k)
    (ho : alarmAt st k = alarmAt st' k') : (s.setMotor (motorAt st' k')).ctrlGo st' k' = s.ctrlTo st' k' := by
  have ha : s.ctrlShell.alarm = alarmAt st' k' := by rw [hi.ctrlShell.alarm, hst, hk, ho]
  simp only [State.setMotor, State.ctrlGo, State.ctrlTo, ← ha]

theorem State.Inv.setAlarm_ctrlGo_eq (hi : s.Inv) (hst : s.ctrlShell.st = st) (hk : s.ctrlShell.step = k)
    (ho : motorAt st k = motorAt st' k') : (s.setAlarm (alarmAt st' k')).ctrlGo st' k' = s.ctrlTo st' k' := by
  have hm : s.ctrlShell.motor = motorAt st' k' := by rw [hi.ctrlShell.motor, hst, hk, ho]
  simp only [State.setAlarm, State.ctrlGo, State.ctrlTo, ← hm]

theorem State.Inv.ctrlGo (hi : s.Inv) (hb : s.ctrlShell.booted = true) (hst : s.ctrlShell.st = st) (hk : s.ctrlShell.step = k)
    (ho : sameOutputs st k st' k') (hp : plainPlace st' k') : (s.ctrlGo st' k').Inv :=
  hi.ctrlGo_eq hst hk ho ▸ hi.ctrlTo hb hp

/-- The loops of `C_SETPW` and `C_VERIFY` begin at index 0. -/
theorem State.Inv.enterLoop (hi : s.Inv) (hb : s.ctrlShell.booted = true) (hst : s.ctrlShell.st = st) (hk : s.ctrlShell.step = k)
    (ho : sameOutputs st k st 2) (hbound : 2 ≤ st.lastStep) : ((s.ctrlSetIdx 0).ctrlGo st 2).Inv := by
  subst hst hk
  have hs := hi.ctrlShell
  exact hi.with_ctrlShell
    ⟨hbound, hs.booted, fun h => absurd (hb.symm.trans h) nofun, hs.pwlen, fun _ _ => BitVec.le_def.2 (Nat.zero_le _),
      fun _ _ => BitVec.le_def.2 (Nat.zero_le _), hs.motor.trans ho.1, hs.alarm.trans ho.2⟩

/-- A row of the control unit that issues an operation, from a place that is not the copy loop, and then moves on. -/
theorem afterOp_ctrl_inv {o : Result} (hi : s.Inv) (hb : s.ctrlShell.booted = true) (hst : s.ctrlShell.st = st)
    (hk : s.ctrlShell.step = k) (hn : plainPlace st k) (ho : sameOutputs st k st' k') (hp : plainPlace st' k')
    (heff : ∀ {u}, o = .next u → HostEffect .ctrl s u) (hinv : ∀ {u}, o = .next u → s.ctrl.Inv → u.ctrl.Inv)
    (h : afterOp .ctrl (·.ctrlGo st' k') o = .next t) : t.Inv := by
  obtain ⟨u, hu, rfl⟩ := afterOp_next h
  have hshell : u.ctrlShell = s.ctrlShell := (heff hu).ctrlShell
  have hui : u.Inv := (heff hu).inv (hinv hu) hi fun h2 h3 => absurd ⟨.inl (hst ▸ h2), hk ▸ h3⟩ hn.2
  split
  · exact hui.ctrlGo (hshell ▸ hb) (hshell ▸ hst) (hshell ▸ hk) ho hp
  · exact hui

theorem dispatch_inv (hi : s.Inv) (hb : s.ctrlShell.booted = true) (hst : s.ctrlShell.st = .wait) (hk : s.ctrlShell.step = 0)
    (h : dispatch st s = .next t) : t.Inv := by
  unfold dispatch at h
  split at h <;> cases h
  · exact hi
  next b rest hq =>
    have hpop : (s.setBlock .ctrl { s.ctrl with rxq := rest }).Inv :=
      hi.setBlock (hi.ctrl.of_same rfl hi.ctrl.plen rfl hi.ctrl.waitAct rfl rfl) rfl id rfl
    exact hpop.ctrlGo hb hst hk (by cases st <;> decide) (by cases st <;> decide)

/-- The places of `C_SETPW`; the copy step's index and its write stay inside the text and the password region (rules R70, R194). -/
theorem setpwStep_inv (hi : s.Inv) (hb : s.ctrlShell.booted = true) (hst : s.ctrlShell.st = .setpw) (h : setpwStep s = .next t) :
    t.Inv := by
  unfold setpwStep at h
  split at h
  case h_1 hk =>
    exact afterOp_ctrl_inv hi hb hst (step_eq_ofNat hk) (by decide) (by decide) (by decide) opReceiveText_effect
      opReceiveText_inv h
  case h_2 hk =>
    cases h
    exact hi.enterLoop hb hst (step_eq_ofNat hk) (by decide) (by decide)
  case h_3 hk =>
    have hk : s.ctrlShell.step = 2 := step_eq_ofNat hk
    have hle : s.ctrlShell.idx ≤ s.ctrl.pbuf.len := hi.ctrlShell.copyIdx hst hk
    dsimp only at h
    split at h <;> cases h
    · exact hi.ctrlGo hb hst hk (by decide) (by decide)
    next hne =>
      have hlt : s.ctrlShell.idx.toNat < s.ctrl.pbuf.len.toNat := by bv_omega
      have hlen := hi.ctrl.plen
      have haddr : storeAddr s.params s.ctrlShell.idx.toNat = s.params.pwBase + s.ctrlShell.idx.toNat :=
        storeAddr_of_wf hi.params (by omega)
      have hs := hi.ctrlShell
      refine State.Inv.with_ctrlShell (s := s.storeByte _ _)
        { hi with store := Memory.write_wf hi.store _ _, region := fun c hc => ?_ }
        { hs with copyIdx := fun _ _ => ?_, readIdx := fun h => absurd (hst.symm.trans h) nofun }
      · rcases Memory.mem_write hc with rfl | hc
        · rw [haddr]
          exact ⟨Nat.le_add_right _ _, Nat.add_le_add_left (by omega) _⟩
        · exact hi.region c hc
      · show s.ctrlShell.idx + 1 ≤ s.ctrl.pbuf.len
        bv_omega
  case h_4 hk =>
    cases h
    have hs := hi.ctrlShell
    have hset : (s.setPwlen s.ctrl.pbuf.len).Inv := hi.with_ctrlShell
      { hs with pwlen := hi.ctrl.plen, readIdx := fun h => absurd (hst.symm.trans h) nofun }
    exact hset.ctrlGo hb hst (step_eq_ofNat hk) (by decide) (by decide)
  case h_5 => cases h; exact hi

/-- The places of `C_VERIFY`; the read-back index stays inside the stored password (rule R196). -/
theorem verifyStep_inv (hi : s.Inv) (hb : s.ctrlShell.booted = true) (hst : s.ctrlShell.st = .verify) (h : verifyStep s = .next t) :
    t.Inv := by
  have hs := hi.ctrlShell
  have hxbuf {x : Text} (hx : x.len.toNat ≤ 9) : (s.setBlock .ctrl { s.ctrl with xbuf := x }).Inv :=
    hi.setBlock { hi.ctrl with xlen := hx } rfl id rfl
  unfold verifyStep at h
  split at h
  case h_1 hk =>
    exact afterOp_ctrl_inv hi hb hst (step_eq_ofNat hk) (by decide) (by decide) (by decide) opReceiveText_effect
      opReceiveText_inv h
  case h_2 hk =>
    cases h
    exact hi.enterLoop hb hst (step_eq_ofNat hk) (by decide) (by decide)
  case h_3 hk =>
    have hk : s.ctrlShell.step = 2 := step_eq_ofNat hk
    have hle : s.ctrlShell.idx ≤ s.ctrlShell.pwlen := hs.readIdx hst hk
    dsimp only at h
    split at h <;> cases h
    · exact hi.ctrlGo hb hst hk (by decide) (by decide)
    next hne =>
      have hset : (s.setBlock .ctrl { s.ctrl with
          xbuf := s.ctrl.xbuf.setByte s.ctrlShell.idx.toNat (s.storedByte s.ctrlShell.idx.toNat) }).Inv := hxbuf hi.ctrl.xlen
      refine hset.with_ctrlShell
        { hset.ctrlShell with copyIdx := fun h => absurd (hst.symm.trans h) nofun, readIdx := fun _ _ => ?_ }
      show s.ctrlShell.idx + 1 ≤ s.ctrlShell.pwlen
      bv_omega
  case h_4 hk =>
    cases h
    have hset : (s.setBlock .ctrl { s.ctrl with xbuf := { s.ctrl.xbuf with len := s.ctrlShell.pwlen }.terminate }).Inv :=
      hxbuf hs.pwlen
    exact hset.ctrlGo hb hst (step_eq_ofNat hk) (by decide) (by decide)
  case h_5 hk =>
    exact afterOp_ctrl_inv hi hb hst (step_eq_ofNat hk) (by decide) (by decide) (by decide) opSendByte_effect
      opSendByte_inv h
  case h_6 => cases h; exact hi

/-- The delay rows of `C_OPEN` and `C_LOCK` keep the outputs, the others write the one of the place they move to. -/
theorem openStep_inv (hi : s.Inv) (hb : s.ctrlShell.booted = true) (hst : s.ctrlShell.st = .open) (h : openStep s = .next t) :
    t.Inv := by
  have hmotor {k k' : BitVec 5} {st' : CtrlState} (hk : s.ctrlShell.step = k) (ho : alarmAt .open k = alarmAt st' k')
      (hp : plainPlace st' k') : ((s.setMotor (motorAt st' k')).ctrlGo st' k').Inv :=
    hi.setMotor_ctrlGo_eq hst hk ho ▸ hi.ctrlTo hb hp
  unfold openStep at h
  split at h
  case h_1 hk | h_3 hk | h_7 hk | h_9 hk =>
    cases h
    exact hmotor (step_eq_ofNat hk) (by decide) (by decide)
  case h_2 hk | h_4 hk | h_5 hk | h_6 hk | h_8 hk =>
    exact afterOp_ctrl_inv hi hb hst (step_eq_ofNat hk) (by decide) (by decide) (by decide) opWaitTicks_effect
      opWaitTicks_inv h
  case h_10 => cases h; exact hi

theorem lockStep_inv (hi : s.Inv) (hb : s.ctrlShell.booted = true) (hst : s.ctrlShell.st = .lock) (h : lockStep s = .next t) :
    t.Inv := by
  have halarm {k k' : BitVec 5} {st' : CtrlState} (hk : s.ctrlShell.step = k) (ho : motorAt .lock k = motorAt st' k')
      (hp : plainPlace st' k') : ((s.setAlarm (alarmAt st' k')).ctrlGo st' k').Inv :=
    hi.setAlarm_ctrlGo_eq hst hk ho ▸ hi.ctrlTo hb hp
  unfold lockStep at h
  split at h
  case h_1 hk | h_6 hk =>
    cases h
    exact halarm (step_eq_ofNat hk) (by decide) (by decide)
  case h_2 hk | h_3 hk | h_4 hk | h_5 hk =>
    exact afterOp_ctrl_inv hi hb hst (step_eq_ofNat hk) (by decide) (by decide) (by decide) opWaitTicks_effect
      opWaitTicks_inv h
  case h_7 => cases h; exact hi

theorem State.booted_of_ctrlEnabled (h : s.ctrlEnabled = true) : s.ctrlShell.booted = true := by
  rw [State.ctrlEnabled, Bool.and_eq_true] at h
  exact h.1

theorem commandStep_inv {own : State → Result} (hi : s.Inv)
    (ho : s.ctrlShell.booted = true → s.ctrlShell.st = st → own s = .next t → t.Inv) (h : commandStep st own s = .next t) :
    t.Inv := by
  unfold commandStep at h
  split at h
  next hen =>
    have hb := State.booted_of_ctrlEnabled hen
    split at h
    next hst =>
      split at h
      next hk => exact dispatch_inv hi hb hst hk h
      · cases h; exact hi
    · split at h
      next hst => exact ho hb hst h
      · cases h; exact hi
  · cases h; exact hi

end

/-! ## The HMI unit's shell -/

section
variable {s t : State} {st : HmiState} {k : BitVec 5}

/-- A trial round is entered only from a trial round, or with trials set. -/
theorem State.Inv.hmiGo (hi : s.Inv) (hb : s.hmiShell.booted = true) (hk : k.toNat ≤ st.lastStep)
    (ht : st = .verify → s.hmiShell.trials ≠ 0) : (s.hmiGo st k).Inv :=
  hi.with_hmiShell ⟨hk, hi.hmiShell.booted, fun h => absurd (hb.symm.trans h) nofun, ht⟩

/-- The key and the display are outside the invariants. -/
theorem State.Inv.with_key_disp (hi : s.Inv) (key : Option Byte) (disp : List DispMsg) : State.Inv { s with key := key, disp := disp } :=
  { hi with }

theorem State.Inv.show (hi : s.Inv) (m : DispMsg) : (s.show m).Inv := hi.with_key_disp _ _

/-- A host operation of the HMI unit leaves the control unit's `PLEN`. -/
theorem HostEffect.inv_hmi (h : HostEffect .hmi s t) (hb : s.hmi.Inv → t.hmi.Inv) (hi : s.Inv) : t.Inv := by
  refine h.inv hb hi fun _ _ => ?_
  obtain ⟨q, hq⟩ := h.peer
  have hq : t.ctrl = { s.ctrl with rxq := q } := hq
  rw [hq]

/-- A row of the HMI unit that issues an operation and then moves on. -/
theorem afterOp_hmi_inv {o : Result} (h : afterOp .hmi (·.hmiGo st k) o = .next t) (hi : s.Inv)
    (hb : s.hmiShell.booted = true) (hk : k.toNat ≤ st.lastStep)
    (ht : st = .verify → s.hmiShell.st = .verify) (heff : ∀ {u}, o = .next u → HostEffect .hmi s u)
    (hinv : ∀ {u}, o = .next u → s.hmi.Inv → u.hmi.Inv) : t.Inv := by
  obtain ⟨u, hu, rfl⟩ := afterOp_next h
  have hshell : u.hmiShell = s.hmiShell := (heff hu).hmiShell
  have hui : u.Inv := (heff hu).inv_hmi (hinv hu) hi
  split
  · exact hui.hmiGo (hshell ▸ hb) hk fun hst => hui.hmiShell.trials (hshell ▸ ht hst)
  · exact hui

theorem State.booted_of_hmiEnabled (h : s.hmiEnabled = true) : s.hmiShell.booted = true := by
  rw [State.hmiEnabled, Bool.and_eq_true] at h
  exact h.1

theorem responseStep_inv {b : Byte} {msg : DispMsg} {decision : State → State} (hi : s.Inv)
    (hd : s.hmiShell.booted = true → (decision s).Inv) (h : responseStep b msg decision s = .next t) : t.Inv := by
  unfold responseStep at h
  split at h
  next hen =>
    obtain ⟨hen, hst⟩ := hen
    have hb := State.booted_of_hmiEnabled hen
    have ht := hi.hmiShell.trials hst
    split at h
    · unfold takeResponse at h
      split at h <;> cases h
      · exact hi
      next rest _ =>
        have hpop : (s.setBlock .hmi { s.hmi with rxq := rest }).Inv :=
          hi.setBlock (hi.hmi.of_same rfl hi.hmi.plen rfl hi.hmi.waitAct rfl rfl) rfl id rfl
        have hresp := hpop.with_hmiShell (h := { s.hmiShell with resp := b }) { hpop.hmiShell with }
        exact hresp.hmiGo hb (by decide) fun _ => ht
    · cases h
      exact (hi.show msg).hmiGo hb (by decide) fun _ => ht
    · exact afterOp_hmi_inv h hi hb (by decide) (fun _ => hst) opWaitTicks_effect opWaitTicks_inv
    · cases h; exact hd hb
    · cases h; exact hi
  · cases h; exact hi

theorem decideMatch_inv (hi : s.Inv) (hb : s.hmiShell.booted = true) : (decideMatch s).Inv := by
  unfold decideMatch
  split <;> exact hi.hmiGo hb (by decide) nofun

/-- Another round begins only with a trial left (rule R227). -/
theorem decideFail_inv (hi : s.Inv) (hb : s.hmiShell.booted = true) : (decideFail s).Inv := by
  unfold decideFail
  dsimp only
  generalize (if s.hmiShell.trials = 0 then (0 : BitVec 2) else s.hmiShell.trials - 1) = n
  have hs := hi.hmiShell
  have hentry (h : s.hmiShell.booted = false) : False := absurd (hb.symm.trans h) nofun
  split
  · exact hi.with_hmiShell ⟨Nat.zero_le _, hs.booted, fun h => (hentry h).elim, nofun⟩
  next hn => exact hi.with_hmiShell ⟨Nat.zero_le _, hs.booted, fun h => (hentry h).elim, fun _ => hn⟩

theorem choiceStep_inv (hi : s.Inv) (hb : s.hmiShell.booted = true) (h : choiceStep s = .next t) : t.Inv := by
  have hs := hi.hmiShell
  have hstart (a : Action) : State.Inv { s with
      key := none, hmiShell := { s.hmiShell with action := a, trials := 3, st := .verify, step := 0 } } :=
    (hi.with_key_disp none s.disp).with_hmiShell
      ⟨Nat.zero_le _, hs.booted, fun h => absurd (hb.symm.trans h) nofun, fun _ => nofun⟩
  unfold choiceStep at h
  split at h
  · cases h; exact hi
  · dsimp only at h
    split_ifs at h <;> cases h
    · exact hstart .open
    · exact hstart .change
    · exact hi.with_key_disp _ _

/-- The HMI unit's shell after a capture's transition (rule R224). -/
theorem Block.Inv.setText_act {b : Block} (hi : b.Inv) {buf : BufSel} {t : Text} (ht : t.len.toNat ≤ 9) {a : Activity}
    (hb : b.act ≠ .inWait) : Block.Inv { b.setText buf t with act := a } := by
  have hw : b.timer.waiting ≠ true := fun h => hb (hi.waitAct h)
  cases buf with
  | pbuf => exact { hi with plen := ht, waitAct := fun h => absurd h hw }
  | xbuf => exact { hi with xlen := ht, waitAct := fun h => absurd h hw }

theorem State.Inv.with_hmi (hi : s.Inv) {b : Block} (hb : b.Inv) (hfore : b.fore = s.hmi.fore) (ht : b.timer = s.hmi.timer) :
    State.Inv { s with hmi := b } :=
  { hi with hmi := hb, hmiShell := hi.hmiShell.of_block hfore fun h => ht ▸ h }

theorem Block.Inv.text_len {b : Block} (hi : b.Inv) (buf : BufSel) : (b.text buf).len.toNat ≤ 9 := by
  cases buf
  · exact hi.plen
  · exact hi.xlen

@[simp] theorem Block.setText_fore (b : Block) (buf : BufSel) (t : Text) : (b.setText buf t).fore = b.fore := by cases buf <;> rfl

@[simp] theorem Block.setText_act (b : Block) (buf : BufSel) (t : Text) : (b.setText buf t).act = b.act := by cases buf <;> rfl

theorem captureStep_inv {buf : BufSel} {prompt : DispMsg} {adv : State → State} (h : captureStep buf prompt adv s = .next t)
    (hi : s.Inv) (ha : ∀ u : State, u.Inv → u.hmiShell = s.hmiShell → (adv u).Inv) : t.Inv := by
  have hset {t : Text} (ht : t.len.toNat ≤ 9) (a : Activity) (hact : s.hmi.act ≠ .inWait) :
      State.Inv { s with hmi := { s.hmi.setText buf t with act := a } } :=
    hi.with_hmi (hi.hmi.setText_act ht hact) (Block.setText_fore _ _ _) (Block.setText_timer _ _ _)
  have hlen := hi.hmi.text_len buf
  unfold captureStep at h
  dsimp only at h
  split at h
  next hact =>
    cases h
    exact (hset (t := (s.hmi.text buf).clear) (Nat.zero_le 9) .inCapture (by simp [hact])).show _
  next hact =>
    have hact : s.hmi.act ≠ .inWait := by simp [hact]
    split at h
    · cases h; exact hi
    · split at h
      · cases h
        exact ha _ ((hset (by exact hlen) .idle hact).with_key_disp none s.disp) rfl
      · split at h <;> cases h
        next t' happ =>
          have h1 := Text.append_len happ
          have h2 := (Text.append_eq_some happ).1
          have hkeep : s.hmi.setText buf t' = { s.hmi.setText buf t' with act := s.hmi.act } := by cases buf <;> rfl
          rw [hkeep]
          exact (hset (by omega) s.hmi.act hact).with_key_disp none _
  all_goals
    cases h
    exact hi

/-- The cases are the rows of the step tables in the order of `hmiShellStep`. -/
theorem hmiShellStep_inv (hi : s.Inv) (hb : s.hmiShell.booted = true) (h : hmiShellStep s = .next t) : t.Inv := by
  unfold hmiShellStep at h
  split at h
  case h_2 => exact choiceStep_inv hi hb h
  case h_3 hst _ =>
    exact captureStep_inv h hi (fun u hu he => hu.hmiGo (he ▸ hb) (by decide) fun _ => he ▸ hi.hmiShell.trials hst)
  case h_24 | h_25 => exact captureStep_inv h hi (fun u hu he => hu.hmiGo (he ▸ hb) (by decide) nofun)
  case h_4 hst _ => exact afterOp_hmi_inv h hi hb (by decide) (fun _ => hst) opSendByte_effect opSendByte_inv
  case h_7 | h_13 | h_28 => exact afterOp_hmi_inv h hi hb (by decide) nofun opSendByte_effect opSendByte_inv
  case h_5 hst _ => exact afterOp_hmi_inv h hi hb (by decide) (fun _ => hst) opSendText_effect opSendText_inv
  case h_29 => exact afterOp_hmi_inv h hi hb (by decide) nofun opSendText_effect opSendText_inv
  case h_6 hst _ => exact afterOp_hmi_inv h hi hb (by decide) (fun _ => hst) opWaitTicks_effect opWaitTicks_inv
  case h_17 | h_19 | h_21 | h_27 | h_31 | h_9 | h_10 | h_11 | h_12 | h_15 | h_23 =>
    exact afterOp_hmi_inv h hi hb (by decide) nofun opWaitTicks_effect opWaitTicks_inv
  case h_26 =>
    split at h <;> cases h
    · exact hi.hmiGo hb (by decide) nofun
    · exact (hi.show _).hmiGo hb (by decide) nofun
  case h_32 => cases h; exact hi
  all_goals
    cases h
    exact (hi.show _).hmiGo hb (by decide) nofun

end

/-! ## Every instruction of a foreground -/

section
variable {r : Role} {s t : State}

/-- A word on the port is firmware's, and firmware's unit has not booted: no shell step of it is taken (rules R39, R303). -/
theorem State.Inv.entry_of_port (hi : s.Inv) (hp : s.ctrl.port ≠ []) : s.ctrlShell.st = .wait :=
  (hi.ctrlShell.entry (Bool.eq_false_iff.2 fun hb => hp (hi.ctrl.shellPort (hi.ctrlShell.booted hb).1))).1

theorem HostEffect.inv_of_port (h : HostEffect r s t) (hb : (s.block r).Inv → (t.block r).Inv) (hi : s.Inv)
    (hp : (s.block r).port ≠ []) : t.Inv := by
  cases r with
  | hmi => exact h.inv_hmi hb hi
  | ctrl => exact h.inv hb hi fun hst => absurd ((hi.entry_of_port hp).symm.trans hst) nofun

/-- The operations that words of the port stand for. -/
theorem exec_decodeOpw_inv {w : Opw} (hi : s.Inv) (hp : (s.block s.cur).port ≠ []) (h : exec (decodeOpw w) s = .next t) :
    t.Inv ∧ HostEffect s.cur s t := by
  have hhost (heff : HostEffect s.cur s t) (hinv : (s.block s.cur).Inv → (t.block s.cur).Inv) : t.Inv ∧ HostEffect s.cur s t :=
    ⟨heff.inv_of_port hinv hi hp, heff⟩
  unfold decodeOpw at h
  split at h
  · exact hhost (opConfigure_effect h) (opConfigure_inv h)
  · exact hhost (opRegisterCallback_effect h) (opRegisterCallback_inv h)
  · exact hhost (opDisable_effect h) (opDisable_inv h)
  · exact hhost (opWaitTicks_effect h) (opWaitTicks_inv h)
  · exact hhost (opSendByte_effect h) (opSendByte_inv h)
  · exact hhost (opReceiveByte_effect h) (opReceiveByte_inv h)
  · exact hhost (opSendText_effect h) (opSendText_inv h)
  · exact hhost (opReceiveText_effect h) (opReceiveText_inv h)
  all_goals cases h

/-- The commands and the responses, taken by the shell they belong to. -/
theorem exec_shell_inv {i : Instr} (hi : s.Inv) (hs : i.stream ≠ .opw) (h : exec i s = .next t) : t.Inv := by
  cases i with
  | cmdSetpw => exact commandStep_inv hi (setpwStep_inv hi) h
  | cmdVerify => exact commandStep_inv hi (verifyStep_inv hi) h
  | cmdOpen => exact commandStep_inv hi (openStep_inv hi) h
  | cmdLock => exact commandStep_inv hi (lockStep_inv hi) h
  | cmdIgnored b =>
    simp only [exec, execCmdIgnored] at h
    split at h
    next hen =>
      obtain ⟨hen, hst, hk⟩ := hen
      exact dispatch_inv hi (State.booted_of_ctrlEnabled hen) hst hk h
    · cases h; exact hi
  | rspMatch => exact responseStep_inv hi (decideMatch_inv hi) h
  | rspNomatch b => exact responseStep_inv hi (decideFail_inv hi) h
  | _ => exact absurd rfl hs

theorem shellStep_inv (hi : s.Inv) (hb : s.booted r = true) (h : shellStep r s = .next t) : t.Inv := by
  unfold shellStep at h
  split at h <;> split at h
  next i hinstr => exact exec_shell_inv hi (by simp [ctrlInstr_stream hinstr]) h
  · cases h; exact hi
  next i hinstr => exact exec_shell_inv hi (by simp [hmiInstr_stream hinstr]) h
  · exact hmiShellStep_inv hi hb h

/-- Booting the shell that is the unit's foreground, its callback registered. -/
theorem State.Inv.setBooted (hi : s.Inv) (hfore : (s.block r).fore = .shell) (hcb : (s.block r).timer.cb = .tickInc) :
    (s.setBooted r).Inv := by
  cases r with
  | hmi => exact hi.with_hmiShell { hi.hmiShell with booted := fun _ => ⟨hfore, hcb⟩, entry := nofun }
  | ctrl => exact hi.with_ctrlShell { hi.ctrlShell with booted := fun _ => ⟨hfore, hcb⟩, entry := nofun }

theorem bootStep_inv (hi : s.Inv) (hfore : (s.block r).fore = .shell) (h : bootStep r s = .next t) : t.Inv := by
  cases hr : (s.block r).ready
  · have : bootStep r s = .next s := if_neg (by simp [hr])
    cases this.symm.trans h
    exact hi
  · rw [bootStep_of_ready hr] at h
    cases h
    have ht := (hi.block r).timer
    have hreg : (s.setTimer r { s.timer r with cb := .tickInc }).Inv :=
      hi.setBlock ((hi.block r).with_timer (t := { (s.block r).timer with cb := .tickInc })
        ⟨ht.runIe, ht.waitRuns, ht.pendingRuns, ht.runPsel, ht.runPdiv⟩ _ (hi.block r).waitAct) rfl (fun _ => rfl) rfl
    exact hreg.setBooted (by simpa using hfore) (by simp)

/-- The port after a transition on its word. -/
theorem Block.Inv.finishPort {b : Block} (hi : b.Inv) : b.finishPort.Inv where
  timer := by simpa using hi.timer
  plen := by simpa using hi.plen
  xlen := by simpa using hi.xlen
  waitAct := by simpa using hi.waitAct
  shellPort := by
    intro hs
    rw [Block.finishPort_fore] at hs
    unfold Block.finishPort
    split <;> simp [hi.shellPort hs]

theorem foregroundStep_inv (hi : s.Inv) (hcur : s.cur = r) (h : foregroundStep r s = .next t) : t.Inv := by
  subst hcur
  unfold foregroundStep at h
  split at h
  · cases h; exact hi
  · split at h
    next w ws hp =>
      obtain ⟨u, hu, rfl⟩ := finishPort_next h
      obtain ⟨hui, -⟩ := exec_decodeOpw_inv hi (by simp [hp]) hu
      exact hui.setBlock (hui.block _).finishPort (by simp) (by simp) (by simp)
    · split at h
      · cases h; exact hi
      next hfore =>
        split at h
        next hb => exact shellStep_inv hi hb h
        · exact bootStep_inv hi hfore h

/-! ## Every turn -/

theorem Timer.takeInterrupt_waiting {t : Timer} (h : t.takeInterrupt.waiting = true) : t.waiting = true := by
  rcases t.takeInterrupt_cases with ⟨-, e⟩ | ⟨-, -, e⟩ | ⟨-, -, -, e⟩ | ⟨-, -, -, -, e⟩ <;> rw [e] at h
  · exact h
  · exact h
  · exact h
  · cases h

theorem State.Inv.setTimer (hi : s.Inv) {u : Timer} (hu : u.Inv) (hw : u.waiting = true → (s.timer r).waiting = true)
    (hcb : u.cb = (s.timer r).cb) : (s.setTimer r u).Inv :=
  hi.setBlock ((hi.block r).with_timer hu _ fun h => (hi.block r).waitAct (hw h)) rfl (fun h => hcb.trans h) rfl

theorem presentWord_inv (hi : s.Inv) (w : Opw) : (presentWord r w s).Inv := by
  simp only [presentWord]
  split
  next hf => exact hi.setBlock { hi.block r with shellPort := fun hs => absurd (hf.symm.trans hs) nofun } rfl id rfl
  · exact hi

theorem resetBlock_inv (draw : Nat) (f : Foreground) : (resetBlock draw f).Inv :=
  ⟨Timer.reset_inv, Nat.zero_le 9, Nat.zero_le 9, nofun, fun _ => rfl⟩

theorem CtrlShell.reset_inv {n : BitVec 4} (hn : n.toNat ≤ 9) (b : Block) : CtrlShell.Inv { CtrlShell.reset with pwlen := n } b :=
  ⟨Nat.le_refl 0, nofun, fun _ => ⟨rfl, rfl⟩, hn, nofun, nofun, rfl, rfl⟩

theorem HmiShell.reset_inv (b : Block) : HmiShell.reset.Inv b := ⟨by decide, nofun, fun _ => ⟨rfl, rfl⟩, nofun⟩

theorem resetUnit_inv (hi : s.Inv) (f : Foreground) : (s.resetUnit r f).Inv := by
  cases r with
  | hmi => exact { hi with hmi := resetBlock_inv _ f, hmiShell := HmiShell.reset_inv _ }
  | ctrl => exact { hi with ctrl := resetBlock_inv _ f, ctrlShell := CtrlShell.reset_inv (resetPwlen_toNat_le _) _ }

theorem takeTurn_inv {e : Event} (hi : s.Inv) (h : takeTurn e s = .next t) : t.Inv := by
  cases e with
  | fg r => exact foregroundStep_inv (s := { s with cur := r }) { hi with } rfl h
  | clk r =>
    cases h
    exact hi.setTimer (Timer.clockEvent_inv (hi.block r).timer) (by simp) (by simp)
  | irq r =>
    cases h
    exact hi.setTimer (Timer.takeInterrupt_inv (hi.block r).timer) Timer.takeInterrupt_waiting (by simp)
  | key k =>
    cases h
    unfold supplyKey
    split
    · exact hi.with_key_disp _ _
    · exact hi
  | present r w => cases h; exact presentWord_inv hi w
  | reset r f => cases h; exact resetUnit_inv hi f

end

/-- Settles O59: the turn of every agent keeps the invariants, and the schedule is outside them. -/
theorem stepsKeepTheSystemInvariants : Obligations.StepsKeepTheSystemInvariants := by
  intro s t hi h
  obtain ⟨e, agenda, turns, hturn⟩ := step_eq_takeTurn s
  exact takeTurn_inv (s := { s with agenda := agenda, turns := turns }) { hi with } (hturn.symm.trans h)

/-- Settles O60: both units' reset values, the parameters of rule R7, and a `STORE` nothing has written. -/
theorem resetMeetsTheSystemInvariants : Obligations.ResetMeetsTheSystemInvariants where
  params := Config_params_wf
  hmi := ⟨Timer.reset_inv, by decide, by decide, nofun, fun _ => rfl⟩
  ctrl := ⟨Timer.reset_inv, by decide, by decide, nofun, fun _ => rfl⟩
  hmiShell := HmiShell.reset_inv _
  ctrlShell := CtrlShell.reset_inv (by decide) _
  store := List.Pairwise.nil
  region := nofun

end Sys2Proof.Machine
end

section
/-! PROOFS. What the two shells may do: the HMI unit grants access and locks only by the decision on a received response (rules R223,
R227), and the control unit sends only verdicts (rules R109, R196). -/

namespace Sys2Proof.Machine

/-! ## The HMI unit's access policy -/

/-- The access policy of one step, from the HMI shell's registers before it and after it (rules R223, R227). -/
structure AccessPolicy (h h' : HmiShell) : Prop where
  opening : h'.st = .opening → h.st ≠ .opening → h.st = .verify ∧ h.step = 7 ∧ h.resp = 0x31 ∧ h.action = .open
  setting : h'.st = .setting → h.st = .verify → h'.booted = true → h.step = 7 ∧ h.resp = 0x31 ∧ h.action = .change
  locked : h'.st = .locked → h.st ≠ .locked → h.st = .verify ∧ h.step = 7 ∧ h.resp ≠ 0x31 ∧ h.trials = 1
  trials : h'.trials ≠ h.trials → h'.trials = 3 ∨ (h.st = .verify ∧ h.step = 7 ∧ h.resp ≠ 0x31 ∧ h.trials = h'.trials + 1)

/-- A step that decides nothing: it stays in its state or enters one that grants and locks nothing, and it spends no trial. -/
structure HmiShell.Quiet (h h' : HmiShell) : Prop where
  st : h'.st = h.st ∨ h'.st = .idle ∨ h'.st = .choice ∨ h'.st = .verify
  trials : h'.trials = h.trials ∨ h'.trials = 3

section
variable {s t : State}

theorem HmiShell.Quiet.refl (h : HmiShell) : h.Quiet h := ⟨.inl rfl, .inl rfl⟩

theorem HmiShell.Quiet.of_eq {h h' : HmiShell} (e : h' = h) : h.Quiet h' := e ▸ .refl h

theorem HmiShell.Quiet.policy {h h' : HmiShell} (hq : h.Quiet h') : AccessPolicy h h' where
  opening hn ho := by rcases hq.st with e | e | e | e <;> simp_all
  setting hn ho := by rcases hq.st with e | e | e | e <;> simp_all
  locked hn ho := by rcases hq.st with e | e | e | e <;> simp_all
  trials hn := .inl (hq.trials.resolve_left hn)

/-- A row that issues a host operation and moves on. -/
theorem afterOp_quiet {o : Result} {st : HmiState} {k : BitVec 5} (h : afterOp .hmi (·.hmiGo st k) o = .next t)
    (heff : ∀ {u}, o = .next u → HostEffect .hmi s u) (hst : st = s.hmiShell.st ∨ st = .idle) :
    s.hmiShell.Quiet t.hmiShell := by
  obtain ⟨u, hu, rfl⟩ := afterOp_next h
  have hshell : u.hmiShell = s.hmiShell := (heff hu).hmiShell
  split
  · exact ⟨hst.imp_right .inl, .inl (show u.hmiShell.trials = s.hmiShell.trials by rw [hshell])⟩
  · exact .of_eq hshell

theorem captureStep_quiet {buf : BufSel} {prompt : DispMsg} {st : HmiState} {k : BitVec 5}
    (h : captureStep buf prompt (·.hmiGo st k) s = .next t) (hst : st = s.hmiShell.st) : s.hmiShell.Quiet t.hmiShell := by
  unfold captureStep at h
  dsimp only at h
  split at h
  · cases h; exact .refl _
  · split at h
    · cases h; exact .refl _
    · split at h
      · cases h; exact ⟨.inl hst, .inl rfl⟩
      · split at h <;> cases h
        exact .refl _
  all_goals
    cases h
    exact .refl _

theorem choiceStep_quiet (h : choiceStep s = .next t) : s.hmiShell.Quiet t.hmiShell := by
  unfold choiceStep at h
  split at h
  · cases h; exact .refl _
  · dsimp only at h
    split_ifs at h <;> cases h
    · exact ⟨.inr (.inr (.inr rfl)), .inr rfl⟩
    · exact ⟨.inr (.inr (.inr rfl)), .inr rfl⟩
    · exact .refl _

/-- No row of the HMI shell's own decides. The cases are the rows in the order of `hmiShellStep`. -/
theorem hmiShellStep_quiet (h : hmiShellStep s = .next t) : s.hmiShell.Quiet t.hmiShell := by
  unfold hmiShellStep at h
  split at h
  case h_2 => exact choiceStep_quiet h
  case h_3 hst _ | h_24 hst _ | h_25 hst _ => exact captureStep_quiet h hst.symm
  case h_4 hst _ | h_7 hst _ | h_13 hst _ | h_28 hst _ => exact afterOp_quiet h opSendByte_effect (.inl hst.symm)
  case h_5 hst _ | h_29 hst _ => exact afterOp_quiet h opSendText_effect (.inl hst.symm)
  case h_6 hst _ | h_9 hst _ | h_10 hst _ | h_11 hst _ | h_15 hst _ | h_17 hst _ | h_19 hst _ | h_21 hst _ | h_27 hst _ =>
    exact afterOp_quiet h opWaitTicks_effect (.inl hst.symm)
  case h_12 | h_23 | h_31 => exact afterOp_quiet h opWaitTicks_effect (.inr rfl)
  case h_1 => cases h; exact ⟨.inr (.inr (.inl rfl)), .inl rfl⟩
  case h_26 hst _ => split at h <;> cases h <;> exact ⟨.inl hst.symm, .inl rfl⟩
  case h_32 => cases h; exact .refl _
  case h_8 hst _ | h_14 hst _ | h_16 hst _ | h_18 hst _ | h_20 hst _ | h_22 hst _ | h_30 hst _ =>
    cases h
    exact ⟨.inl hst.symm, .inl rfl⟩

/-- A response's step is quiet, or is its decision in `H_VERIFY` step 7. -/
theorem responseStep_quiet_or_decision {b : Byte} {msg : DispMsg} {decision : State → State}
    (h : responseStep b msg decision s = .next t) :
    s.hmiShell.Quiet t.hmiShell ∨ (s.hmiShell.st = .verify ∧ s.hmiShell.step = 7 ∧ t = decision s) := by
  unfold responseStep at h
  split at h
  next hen =>
    split at h
    · unfold takeResponse at h
      split at h <;> cases h
      · exact .inl (.refl _)
      · exact .inl ⟨.inl hen.2.symm, .inl rfl⟩
    · cases h; exact .inl ⟨.inl hen.2.symm, .inl rfl⟩
    · exact .inl (afterOp_quiet h opWaitTicks_effect (.inl hen.2.symm))
    next hk => cases h; exact .inr ⟨hen.2, step_eq_ofNat hk, rfl⟩
    · cases h; exact .inl (.refl _)
  · cases h; exact .inl (.refl _)

theorem decideMatch_policy (hst : s.hmiShell.st = .verify) (hk : s.hmiShell.step = 7) (hresp : s.hmiShell.resp = 0x31) :
    AccessPolicy s.hmiShell (decideMatch s).hmiShell := by
  match ha : s.hmiShell.action with
  | .open =>
    simp only [decideMatch, ha]
    exact ⟨fun _ _ => ⟨hst, hk, hresp, ha⟩, nofun, nofun, fun h => absurd rfl h⟩
  | .change =>
    simp only [decideMatch, ha]
    exact ⟨nofun, fun _ _ _ => ⟨hk, hresp, ha⟩, nofun, fun h => absurd rfl h⟩

/-- In a trial round a trial is left, so the failed one is spent, and the last one locks (rule R227). -/
theorem decideFail_policy (hst : s.hmiShell.st = .verify) (hk : s.hmiShell.step = 7) (hresp : s.hmiShell.resp ≠ 0x31)
    (ht : s.hmiShell.trials ≠ 0) : AccessPolicy s.hmiShell (decideFail s).hmiShell := by
  have hspent : s.hmiShell.trials = s.hmiShell.trials - 1 + 1 := by bv_omega
  simp only [decideFail, if_neg ht]
  split
  next hlast =>
    have hone : s.hmiShell.trials = 1 := by bv_omega
    exact ⟨nofun, nofun, fun _ _ => ⟨hst, hk, hresp, hone⟩, fun _ => .inr ⟨hst, hk, hresp, hspent⟩⟩
  · exact ⟨nofun, nofun, nofun, fun _ => .inr ⟨hst, hk, hresp, hspent⟩⟩

theorem exec_decodeRsp_match (s : State) : exec (decodeRsp 0x31) s = responseStep 0x31 .ok decideMatch s := rfl

theorem exec_decodeRsp_nomatch {b : Byte} (hb : b ≠ 0x31) (s : State) : exec (decodeRsp b) s = responseStep b .fail decideFail s := by
  rw [decodeRsp_of_ne hb]
  rfl

/-- The response the HMI shell is at: the received byte decides in step 7. -/
theorem exec_hmiInstr_policy {i : Instr} (hi : s.Inv) (hinstr : hmiInstr s = some i) (h : exec i s = .next t) :
    AccessPolicy s.hmiShell t.hmiShell := by
  obtain ⟨b, rfl, hb⟩ : ∃ b, i = decodeRsp b ∧ (s.hmiShell.step = 7 → b = s.hmiShell.resp) := by
    unfold hmiInstr at hinstr
    split_ifs at hinstr with hst hk4
    · obtain ⟨b, -, rfl⟩ := Option.map_eq_some_iff.1 hinstr
      exact ⟨b, rfl, fun hk => by simp [hk] at hk4⟩
    · cases hinstr
      exact ⟨_, rfl, fun _ => rfl⟩
  by_cases hmatch : b = 0x31
  · subst hmatch
    rcases responseStep_quiet_or_decision (exec_decodeRsp_match s ▸ h) with hq | ⟨hst, hk, rfl⟩
    · exact hq.policy
    · exact decideMatch_policy hst hk (hb hk).symm
  · rcases responseStep_quiet_or_decision (exec_decodeRsp_nomatch hmatch s ▸ h) with hq | ⟨hst, hk, rfl⟩
    · exact hq.policy
    · exact decideFail_policy hst hk (hb hk ▸ hmatch) (hi.hmiShell.trials hst)

theorem bootStep_quiet (h : bootStep .hmi s = .next t) : s.hmiShell.Quiet t.hmiShell := by
  cases hr : (s.block .hmi).ready
  · have hsame : bootStep .hmi s = .next s := if_neg (Bool.eq_false_iff.1 hr)
    cases hsame.symm.trans h
    exact .refl _
  · rw [bootStep_of_ready hr] at h
    cases h
    exact ⟨.inl rfl, .inl rfl⟩

theorem foregroundStep_hmi_policy (hi : s.Inv) (hcur : s.cur = .hmi) (h : foregroundStep .hmi s = .next t) :
    AccessPolicy s.hmiShell t.hmiShell := by
  have hsame : AccessPolicy s.hmiShell s.hmiShell := (HmiShell.Quiet.refl _).policy
  unfold foregroundStep at h
  split at h
  · cases h; exact hsame
  · split at h
    next w ws hp =>
      obtain ⟨u, hu, rfl⟩ := finishPort_next h
      obtain ⟨-, heff⟩ := exec_decodeOpw_inv hi (by rw [hcur, hp]; exact List.cons_ne_nil _ _) hu
      exact (HmiShell.Quiet.of_eq heff.hmiShell).policy
    · split at h
      · cases h; exact hsame
      · split at h
        · simp only [shellStep] at h
          split at h
          next i hinstr => exact exec_hmiInstr_policy hi hinstr h
          · exact (hmiShellStep_quiet h).policy
        · exact (bootStep_quiet h).policy

theorem supplyKey_hmiShell (k : Byte) (s : State) : (supplyKey k s).hmiShell = s.hmiShell := by
  unfold supplyKey
  split <;> rfl

theorem presentWord_hmiShell (r : Role) (w : Opw) (s : State) : (presentWord r w s).hmiShell = s.hmiShell := by
  simp only [presentWord]
  split <;> simp

/-- Of the other turns only the unit's reset reaches the HMI shell, and it leaves no unit booted. -/
theorem takeTurn_policy {e : Event} (hi : s.Inv) (h : takeTurn e s = .next t) : AccessPolicy s.hmiShell t.hmiShell := by
  have hsame (e : t.hmiShell = s.hmiShell) : AccessPolicy s.hmiShell t.hmiShell := (HmiShell.Quiet.of_eq e).policy
  cases e with
  | fg r =>
    cases r with
    | hmi => exact foregroundStep_hmi_policy (s := { s with cur := .hmi }) { hi with } rfl h
    | ctrl => exact hsame ((takeTurn_fg_unitEffect h).hmiShell rfl)
  | clk r | irq r => cases h; exact hsame (State.setBlock_hmiShell _ _ _)
  | key k => cases h; exact hsame (supplyKey_hmiShell k s)
  | present r w => cases h; exact hsame (presentWord_hmiShell r w s)
  | reset r f =>
    cases h
    cases r with
    | hmi => exact ⟨nofun, nofun, nofun, fun _ => .inl rfl⟩
    | ctrl => exact hsame rfl

end

/-- Settles O52: every turn follows the access policy. -/
theorem accessOnlyByMatchLockoutOnlyByTrials : Obligations.AccessOnlyByMatchLockoutOnlyByTrials := by
  intro s t hi h
  obtain ⟨e, agenda, turns, hturn⟩ := step_eq_takeTurn s
  have hi' : State.Inv { s with agenda := agenda, turns := turns } := { hi with }
  obtain ⟨hopening, hsetting, hlocked, htrials⟩ := takeTurn_policy hi' (hturn.symm.trans h)
  exact ⟨hopening, hsetting, hlocked, htrials⟩

/-! ## What the control unit sends -/

section
variable {s t : State}

theorem opWaitTicks_peer {r n a b ps m} (h : opWaitTicks r n a b ps m s = .next t) : t.block r.peer = s.block r.peer := by
  rcases opWaitTicks_next h with rfl | ⟨-, -, rfl⟩ | ⟨-, -, -, rfl⟩ <;> simp

theorem opReceiveText_peer {r} (h : opReceiveText r s = .next t) : t.block r.peer = s.block r.peer := by
  have hbyte {u : State} (h : receiveTextByte r u = .next t) : t.block r.peer = u.block r.peer := by
    rcases receiveTextByte_next h with ⟨rfl, -⟩ | ⟨_, -, rfl⟩ | ⟨_, _, _, -, -, -, rfl⟩ <;> simp
  rcases opReceiveText_next h with rfl | ⟨-, -, h⟩ | ⟨-, h⟩
  · rfl
  · exact hbyte h
  · simpa using hbyte h

theorem afterOp_ctrl_hmi {o : Result} {st : CtrlState} {k : BitVec 5} (h : afterOp .ctrl (·.ctrlGo st k) o = .next t)
    (ho : ∀ {u}, o = .next u → u.hmi = s.hmi) : t.hmi = s.hmi := by
  obtain ⟨u, hu, rfl⟩ := afterOp_next h
  have hhmi : u.hmi = s.hmi := ho hu
  split <;> exact hhmi

theorem setpwStep_hmi (h : setpwStep s = .next t) : t.hmi = s.hmi := by
  unfold setpwStep at h
  split at h
  case h_1 => exact afterOp_ctrl_hmi h fun hu => opReceiveText_peer (r := .ctrl) hu
  case h_3 => dsimp only at h; split at h <;> cases h <;> rfl
  all_goals
    cases h
    rfl

theorem openStep_hmi (h : openStep s = .next t) : t.hmi = s.hmi := by
  unfold openStep at h
  split at h
  case h_2 | h_4 | h_5 | h_6 | h_8 => exact afterOp_ctrl_hmi h fun hu => opWaitTicks_peer (r := .ctrl) hu
  all_goals
    cases h
    rfl

theorem lockStep_hmi (h : lockStep s = .next t) : t.hmi = s.hmi := by
  unfold lockStep at h
  split at h
  case h_2 | h_3 | h_4 | h_5 => exact afterOp_ctrl_hmi h fun hu => opWaitTicks_peer (r := .ctrl) hu
  all_goals
    cases h
    rfl

/-- The verdict byte joins the HMI unit's queue (rule R196 f). -/
def SendsVerdict (s t : State) : Prop :=
  s.ctrlShell.step = 4 ∧ (t.hmi.rxq = s.hmi.rxq ++ [0x31] ∨ t.hmi.rxq = s.hmi.rxq ++ [0x30])

theorem verifyStep_hmi (h : verifyStep s = .next t) : t.hmi = s.hmi ∨ SendsVerdict s t := by
  unfold verifyStep at h
  split at h
  case h_1 => exact .inl (afterOp_ctrl_hmi h fun hu => opReceiveText_peer (r := .ctrl) hu)
  case h_3 => dsimp only at h; split at h <;> cases h <;> exact .inl rfl
  case h_5 hk =>
    obtain ⟨u, hu, rfl⟩ := afterOp_next h
    rcases opSendByte_next hu with rfl | ⟨-, rfl⟩
    · exact .inl (by split <;> rfl)
    · refine .inr ⟨step_eq_ofNat hk, ?_⟩
      split
      · exact .inl (by split <;> rfl)
      · exact .inr (by split <;> rfl)
  all_goals
    cases h
    exact .inl rfl

theorem dispatch_hmi {st : CtrlState} (h : dispatch st s = .next t) : t.hmi = s.hmi := by
  unfold dispatch at h
  split at h <;> cases h <;> rfl

/-- A command sends nothing but what a step of its own table sends. -/
theorem commandStep_hmi {st : CtrlState} {own : State → Result} (h : commandStep st own s = .next t) :
    t.hmi = s.hmi ∨ (s.ctrlShell.st = st ∧ own s = .next t) := by
  unfold commandStep at h
  split at h
  · split at h
    · split at h
      · exact .inl (dispatch_hmi h)
      · cases h; exact .inl rfl
    · split at h
      next hst => exact .inr ⟨hst, h⟩
      · cases h; exact .inl rfl
  · cases h; exact .inl rfl

theorem exec_cmd_hmi {i : Instr} (hs : i.stream = .cmd) (h : exec i s = .next t) :
    t.hmi = s.hmi ∨ (s.ctrlShell.st = .verify ∧ SendsVerdict s t) := by
  cases i with
  | cmdSetpw =>
    rcases commandStep_hmi h with he | ⟨-, ho⟩
    · exact .inl he
    · exact .inl (setpwStep_hmi ho)
  | cmdVerify =>
    rcases commandStep_hmi h with he | ⟨hst, ho⟩
    · exact .inl he
    · exact (verifyStep_hmi ho).imp_right fun hsend => ⟨hst, hsend⟩
  | cmdOpen =>
    rcases commandStep_hmi h with he | ⟨-, ho⟩
    · exact .inl he
    · exact .inl (openStep_hmi ho)
  | cmdLock =>
    rcases commandStep_hmi h with he | ⟨-, ho⟩
    · exact .inl he
    · exact .inl (lockStep_hmi ho)
  | cmdIgnored b =>
    simp only [exec, execCmdIgnored] at h
    split at h
    · exact .inl (dispatch_hmi h)
    · cases h; exact .inl rfl
  | _ => cases hs

theorem bootStep_ctrl_hmi (h : bootStep .ctrl s = .next t) : t.hmi = s.hmi := by
  cases hr : (s.block .ctrl).ready
  · have hsame : bootStep .ctrl s = .next s := if_neg (Bool.eq_false_iff.1 hr)
    cases hsame.symm.trans h
    rfl
  · rw [bootStep_of_ready hr] at h
    cases h
    rfl

theorem foregroundStep_ctrl_hmi (hp : s.ctrl.port = []) (hf : s.ctrl.fore = .shell) (h : foregroundStep .ctrl s = .next t) :
    t.hmi = s.hmi ∨ (s.ctrlShell.st = .verify ∧ SendsVerdict s t) := by
  have hp : (s.block .ctrl).port = [] := hp
  have hf : (s.block .ctrl).fore = .shell := hf
  cases hw : (s.block .ctrl).timer.waiting
  · cases hb : s.booted .ctrl
    · rw [foregroundStep_of_unbooted_shell hf hp hb hw] at h
      exact .inl (bootStep_ctrl_hmi h)
    · rw [foregroundStep_of_booted_shell hf hp hb hw] at h
      simp only [shellStep] at h
      split at h
      next i hinstr => exact exec_cmd_hmi (ctrlInstr_stream hinstr) h
      · cases h; exact .inl rfl
  · rw [foregroundStep_of_waiting hw] at h
    cases h
    exact .inl rfl

end

/-- Settles O43: of the control unit's rows only the last of `C_VERIFY` reaches the HMI unit. -/
theorem controlUnitSendsOnlyVerdicts : Obligations.ControlUnitSendsOnlyVerdicts := by
  intro s t rest ha hf hp h hne
  rw [step_of_agenda ha] at h
  rcases foregroundStep_ctrl_hmi (s := s.turn .ctrl rest) hp hf h with hsame | ⟨hst, hk, hsent⟩
  · exact absurd (congrArg Block.rxq hsame) hne
  · exact ⟨hst, hk, hsent⟩

end Sys2Proof.Machine
end

section
/-! PROOFS. The Command Framer's operations as equations (rules R112, R171 to R174), and the two text operations run to their end. -/

namespace Sys2Proof.Machine

/-! ## `receive_byte` -/

section
variable {r : Role} {s : State}

theorem opReceiveByte_of_nil (hw : (s.block r).timer.waiting = false) (ha : (s.block r).act = .idle ∨ (s.block r).act = .inReceiveByte)
    (hq : (s.block r).rxq = []) : opReceiveByte r s = .next (s.setBlock r { s.block r with act := .inReceiveByte }) := by
  simp [opReceiveByte, hw, ha, hq]

theorem opReceiveByte_of_cons (hw : (s.block r).timer.waiting = false)
    (ha : (s.block r).act = .idle ∨ (s.block r).act = .inReceiveByte) {b : Byte} {rest : List Byte} (hq : (s.block r).rxq = b :: rest) :
    opReceiveByte r s = .next (s.setBlock r { s.block r with rxq := rest, res := b, act := .idle }) := by
  simp [opReceiveByte, hw, ha, hq]

end

theorem exec_receiveByte (s : State) : exec .receiveByte s = opReceiveByte s.cur s := rfl

/-- Settles O25: by whether the queue holds a byte. -/
theorem receiveByteTakesTheOldest : Obligations.ReceiveByteTakesTheOldest := by
  intro s hw ha
  rw [exec_receiveByte]
  exact ⟨fun _ _ hq => opReceiveByte_of_cons hw ha hq, fun hq => opReceiveByte_of_nil hw ha hq⟩

/-! ## Several transitions in a row -/

/-- `n` transitions of a step relation. -/
def Steps (R : State → State → Prop) : Nat → State → State → Prop
  | 0, s, t => s = t
  | n + 1, s, t => ∃ u, R s u ∧ Steps R n u t

section
variable {R : State → State → Prop} {n k : Nat} {s t u : State}

theorem Steps.trans (h : Steps R n s t) (h' : Steps R k t u) : Steps R (n + k) s u := by
  induction n generalizing s with
  | zero =>
    obtain rfl : s = t := h
    rwa [Nat.zero_add]
  | succ n ih =>
    obtain ⟨v, hv, h⟩ := h
    rw [Nat.succ_add]
    exact ⟨v, hv, ih h⟩

theorem Steps.single (h : R s t) : Steps R 1 s t := ⟨t, h, rfl⟩

/-- Along a sequence of states. -/
theorem Steps.of_forall {σ : Nat → State} {m : Nat} (h : ∀ i, m ≤ i → i < m + n → R (σ i) (σ (i + 1))) : Steps R n (σ m) (σ (m + n)) := by
  induction n generalizing m with
  | zero => rfl
  | succ n ih =>
    refine ⟨σ (m + 1), h m (Nat.le_refl m) (by omega), ?_⟩
    have hrest := ih (m := m + 1) fun i h1 h2 => h i (by omega) (by omega)
    rwa [Nat.add_right_comm] at hrest

/-- An operation that goes through the states `σ 1`, `σ 2`, … after it has begun as it would go on from `σ 0`. -/
theorem Steps.of_begin {σ : Nat → State} (hbegin : ∀ v, R (σ 0) v → R s v) (hsteps : ∀ i < n, R (σ i) (σ (i + 1)))
    (hlast : R (σ n) t) : Steps R (n + 1) s t := by
  cases n with
  | zero => exact .single (hbegin t hlast)
  | succ n =>
    refine ⟨σ 1, hbegin _ (hsteps 0 (Nat.succ_pos n)), ?_⟩
    have hmid : Steps R n (σ 1) (σ (n + 1)) := by
      rw [Nat.add_comm n 1]
      exact .of_forall fun i _ hi => hsteps i (by omega)
    exact hmid.trans (.single hlast)

end

theorem execTimes_of_steps {i : Instr} {n : Nat} {s t : State} (h : Steps (fun u v => exec i u = .next v) n s t) :
    execTimes n i s = .next t := by
  induction n generalizing s with
  | zero =>
    obtain rfl : s = t := h
    rfl
  | succ n ih =>
    obtain ⟨u, hu, h⟩ := h
    simp only [execTimes, hu]
    exact ih h

/-! ## `send_text` -/

@[simp] theorem State.setBlock_peer_setBlock (s : State) (r : Role) (b c d : Block) :
    ((s.setBlock r b).setBlock r.peer c).setBlock r d = (s.setBlock r d).setBlock r.peer c := by cases r <;> rfl

@[simp] theorem State.setBlock_peer_setBlock_peer (s : State) (r : Role) (b c d : Block) :
    ((s.setBlock r b).setBlock r.peer c).setBlock r.peer d = (s.setBlock r b).setBlock r.peer d := by cases r <;> rfl

@[simp] theorem Block.text_with_act (b : Block) (a : Activity) (buf : BufSel) : Block.text { b with act := a } buf = b.text buf := by
  cases buf <;> rfl

/-- A unit whose `send_text` has sent `i` text bytes, and the peer, whose queue they have joined. -/
def State.sending (s : State) (r : Role) (buf : BufSel) (i : Nat) : State :=
  (s.setBlock r { s.block r with act := .inSendText buf (BitVec.ofNat 4 i) }).setBlock r.peer
    { s.block r.peer with rxq := (s.block r.peer).rxq ++ ((s.block r).text buf).content.take i }

section
variable {r : Role} {s : State} {buf : BufSel} {i : BitVec 4}

theorem opSendText_of_lt (hw : (s.block r).timer.waiting = false) (ha : (s.block r).act.sent buf = some i)
    (hi : i.toNat < ((s.block r).text buf).len.toNat) :
    opSendText r buf s = .next ((s.setBlock r { s.block r with act := .inSendText buf (i + 1) }).setBlock r.peer
      { s.block r.peer with rxq := (s.block r.peer).rxq ++ [((s.block r).text buf).byte i.toNat] }) := by
  simp [opSendText, hw, ha, BitVec.lt_def, hi]

theorem opSendText_of_le (hw : (s.block r).timer.waiting = false) (ha : (s.block r).act.sent buf = some i)
    (hi : ((s.block r).text buf).len.toNat ≤ i.toNat) :
    opSendText r buf s = .next ((s.setBlock r { s.block r with act := .idle }).setBlock r.peer
      { s.block r.peer with rxq := (s.block r.peer).rxq ++ [0x00] }) := by
  simp [opSendText, hw, ha, BitVec.lt_def, Nat.not_lt.2 hi]

theorem sent_of_sending (ha : (s.block r).act = .inSendText buf i ∨ ((s.block r).act = .idle ∧ i = 0)) :
    (s.block r).act.sent buf = some i := by
  rcases ha with ha | ⟨ha, rfl⟩ <;> simp [ha, Activity.sent]

end

theorem exec_sendText (buf : BufSel) (s : State) : exec (.sendText buf) s = opSendText s.cur buf s := rfl

/-- Settles O27: by whether a text byte is left at the position reached. -/
theorem sendTextByteSteps : Obligations.SendTextByteSteps := by
  intro s buf i hw ha u p
  rw [exec_sendText]
  exact ⟨opSendText_of_lt hw (sent_of_sending ha), opSendText_of_le hw (sent_of_sending ha)⟩

@[simp] theorem Text.content_length (t : Text) : t.content.length = t.len.toNat := by simp [Text.content]

theorem Text.content_getElem (t : Text) {i : Nat} (h : i < t.content.length) : t.content[i] = t.byte i := by
  simp [Text.content]

theorem Text.content_take_succ (t : Text) {i : Nat} (h : i < t.len.toNat) : t.content.take (i + 1) = t.content.take i ++ [t.byte i] := by
  rw [List.take_add_one, List.getElem?_eq_getElem (by simpa using h), Text.content_getElem]
  rfl

section
variable {r : Role} {s : State} {buf : BufSel}

@[simp] theorem State.sending_cur (i : Nat) : (s.sending r buf i).cur = s.cur := by simp [State.sending]

/-- What a byte step of a `send_text` in progress sees of the state. -/
theorem State.sending_own (i : Nat) :
    (s.sending r buf i).block r = { s.block r with act := .inSendText buf (BitVec.ofNat 4 i) } := by
  simp [State.sending]

theorem State.sending_peer (i : Nat) : (s.sending r buf i).block r.peer =
    { s.block r.peer with rxq := (s.block r.peer).rxq ++ ((s.block r).text buf).content.take i } := by
  simp [State.sending]

theorem opSendText_begin (hr : (s.block r).ready = true) : opSendText r buf (s.sending r buf 0) = opSendText r buf s := by
  obtain ⟨hw, ha⟩ := (Block.ready_iff _).1 hr
  simp [opSendText, State.sending, hw, ha, Activity.sent]

theorem opSendText_sending (hw : (s.block r).timer.waiting = false) {i : Nat} (hi : i < ((s.block r).text buf).len.toNat) :
    opSendText r buf (s.sending r buf i) = .next (s.sending r buf (i + 1)) := by
  have hlen := ((s.block r).text buf).len.isLt
  have hmod : (BitVec.ofNat 4 i).toNat = i := by rw [BitVec.toNat_ofNat]; omega
  rw [opSendText_of_lt (i := BitVec.ofNat 4 i) (by rw [State.sending_own]; exact hw) (by rw [State.sending_own]; simp [Activity.sent])
    (by rw [State.sending_own, Block.text_with_act, hmod]; exact hi)]
  rw [State.sending_own, State.sending_peer, Block.text_with_act, hmod]
  simp [State.sending, Text.content_take_succ _ hi, BitVec.ofNat_add]

theorem opSendText_sent (hw : (s.block r).timer.waiting = false) :
    opSendText r buf (s.sending r buf ((s.block r).text buf).len.toNat) =
      .next ((s.setBlock r { s.block r with act := .idle }).setBlock r.peer
        { s.block r.peer with rxq := (s.block r.peer).rxq ++ (((s.block r).text buf).content ++ [0x00]) }) := by
  rw [opSendText_of_le (i := ((s.block r).text buf).len) (by rw [State.sending_own]; exact hw)
    (by rw [State.sending_own]; simp [Activity.sent]) (by rw [State.sending_own, Block.text_with_act])]
  rw [State.sending_own, State.sending_peer, List.take_of_length_le (by simp)]
  simp [State.sending]

end

/-- Settles O26: the text's bytes one by one, then the terminator. -/
theorem sendTextSendsTextAndTerminator : Obligations.SendTextSendsTextAndTerminator := by
  intro s buf hr t
  obtain ⟨hw, ha⟩ := (Block.ready_iff _).1 hr
  have hrun := execTimes_of_steps (i := .sendText buf) (Steps.of_begin (σ := s.sending s.cur buf) (n := t.len.toNat)
    (fun v hv => by rwa [exec_sendText, State.sending_cur, opSendText_begin hr] at hv)
    (fun i hi => by rw [exec_sendText, State.sending_cur, opSendText_sending hw hi])
    (by rw [exec_sendText, State.sending_cur, opSendText_sent hw]))
  rw [hrun, ← ha, State.setBlock_block]

end Sys2Proof.Machine
end

section
/-! PROOFS. `receive_text` byte by byte and run to its end (rules R78, R174), and `send_frame` (rules R112, R114). -/

namespace Sys2Proof.Machine

/-! ## A byte step of `receive_text` -/

section
variable {r : Role} {s : State} {b : Byte} {rest : List Byte}

theorem receiveTextByte_of_nil (hq : (s.block r).rxq = []) : receiveTextByte r s = .next s := by
  simp only [receiveTextByte, hq]

theorem receiveTextByte_of_terminator (hq : (s.block r).rxq = 0x00 :: rest) :
    receiveTextByte r s =
      .next (s.setBlock r { s.block r with rxq := rest, pbuf := (s.block r).pbuf.terminate, act := .idle }) := by
  simp [receiveTextByte, hq]

theorem receiveTextByte_of_append (hq : (s.block r).rxq = b :: rest) (hb : b ≠ 0x00) {p : Text}
    (hp : (s.block r).pbuf.append b = some p) :
    receiveTextByte r s = .next (s.setBlock r { s.block r with rxq := rest, pbuf := p }) := by
  have hb : b ≠ 0#8 := hb
  simp [receiveTextByte, hq, hb, hp]

theorem receiveTextByte_of_full (hq : (s.block r).rxq = b :: rest) (hb : b ≠ 0x00) (hp : (s.block r).pbuf.append b = none) :
    receiveTextByte r s = .fault (.bufferOverflow b) := by
  have hb : b ≠ 0#8 := hb
  simp [receiveTextByte, hq, hb, hp]

/-- A unit that has just begun `receive_text`. -/
def State.beginReceive (s : State) (r : Role) : State :=
  s.setBlock r { s.block r with pbuf := (s.block r).pbuf.clear, act := .inReceiveText }

@[simp] theorem State.beginReceive_block (s : State) (r : Role) :
    (s.beginReceive r).block r = { s.block r with pbuf := (s.block r).pbuf.clear, act := .inReceiveText } :=
  State.block_setBlock _ _ _

@[simp] theorem State.beginReceive_setBlock (s : State) (r : Role) (b : Block) : (s.beginReceive r).setBlock r b = s.setBlock r b :=
  State.setBlock_setBlock _ _ _ _

theorem opReceiveText_of_ready (hr : (s.block r).ready = true) : opReceiveText r s = receiveTextByte r (s.beginReceive r) := by
  obtain ⟨hw, ha⟩ := (Block.ready_iff _).1 hr
  simp [opReceiveText, State.beginReceive, hw, ha]

theorem opReceiveText_of_begun (hw : (s.block r).timer.waiting = false) (ha : (s.block r).act = .inReceiveText) :
    opReceiveText r s = receiveTextByte r s := by
  simp [opReceiveText, hw, ha]

end

theorem Text.append_of_lt {t : Text} (h : t.len.toNat < 9) (b : Byte) :
    t.append b = some { bytes := t.bytes.setIfInBounds t.len.toNat b, len := t.len + 1 } := if_neg (by omega)

theorem Text.append_of_full {t : Text} (h : t.len = 9) (b : Byte) : t.append b = none := if_pos (by rw [h]; decide)

theorem exec_receiveText (s : State) : exec .receiveText s = opReceiveText s.cur s := rfl

/-- Settles O28: as it begins from length 0, in progress from the length so far, each by the byte at the head. -/
theorem receiveTextByteSteps : Obligations.ReceiveTextByteSteps := by
  refine ⟨?begins, ?goesOn⟩
  case begins =>
    intro s hr u
    obtain ⟨-, ha⟩ := (Block.ready_iff _).1 hr
    rw [exec_receiveText, opReceiveText_of_ready hr]
    have hq : ((s.beginReceive s.cur).block s.cur).rxq = u.rxq := by simp [u]
    refine ⟨fun h => ?_, fun rest h => ?_, fun b rest h hb => ?_⟩
    · rw [receiveTextByte_of_nil (hq.trans h)]
      rfl
    · rw [receiveTextByte_of_terminator (hq.trans h)]
      simp [u, Text.terminate, Text.clear, ha]
    · rw [receiveTextByte_of_append (hq.trans h) hb (Text.append_of_lt (by simp) b)]
      simp [u]
  case goesOn =>
    intro s hw ha u n
    rw [exec_receiveText, opReceiveText_of_begun hw ha]
    refine ⟨receiveTextByte_of_nil, fun rest => receiveTextByte_of_terminator, fun b rest h hb hn => ?_, fun b rest h hb hn => ?_⟩
    · exact receiveTextByte_of_append h hb (Text.append_of_lt hn b)
    · exact receiveTextByte_of_full h hb (Text.append_of_full hn b)

/-! ## A buffer that holds a text -/

/-- A buffer into which a text has been written from its first place on, with the bytes behind it as they were. -/
def Text.filled (t : Text) (l : List Byte) : Text :=
  { bytes := Vector.ofFn fun i => l[i.val]?.getD t.bytes[i], len := BitVec.ofNat 4 l.length }

section
variable {t : Text} {l : List Byte}

theorem Text.filled_len (h : l.length ≤ 15) : (t.filled l).len.toNat = l.length := by
  show (BitVec.ofNat 4 l.length).toNat = l.length
  rw [BitVec.toNat_ofNat]
  omega

theorem Text.filled_nil : t.filled [] = t.clear := by
  simp [Text.filled, Text.clear]

theorem Text.filled_byte_of_lt (h : l.length ≤ 10) {i : Nat} (hi : i < l.length) : (t.filled l).byte i = l[i] := by
  have h10 : i < 10 := by omega
  simp [Text.filled, Text.byte, h10, hi]

theorem Text.filled_byte_of_le {i : Nat} (hi : l.length ≤ i) : (t.filled l).byte i = t.byte i := by
  by_cases h10 : i < 10 <;> simp [Text.filled, Text.byte, h10, hi]

theorem Text.filled_append_bytes (l : List Byte) (b : Byte) :
    (t.filled (l ++ [b])).bytes = (t.filled l).bytes.setIfInBounds l.length b := by
  refine Vector.ext fun i hi => ?_
  by_cases hil : i = l.length
  · subst hil
    simp [Text.filled]
  · have hsame : (l ++ [b])[i]? = l[i]? := by
      rw [List.getElem?_append]
      split
      · rfl
      · rw [List.getElem?_eq_none (by simp; omega), List.getElem?_eq_none (by omega)]
    simp [Text.filled, Vector.getElem_setIfInBounds_ne, Ne.symm hil, hsame]

theorem Text.filled_append (h : l.length < 9) (b : Byte) : (t.filled l).append b = some (t.filled (l ++ [b])) := by
  have hlen : (t.filled (l ++ [b])).len = (t.filled l).len + 1 := by simp [Text.filled, BitVec.ofNat_add]
  rw [Text.append_of_lt (by rw [Text.filled_len (by omega)]; exact h), Text.filled_len (by omega), ← Text.filled_append_bytes, ← hlen]

theorem Text.filled_content (h : l.length ≤ 10) : (t.filled l).content = l := by
  apply List.ext_getElem
  · rw [Text.content_length, Text.filled_len (by omega)]
  · intro i h1 h2
    rw [Text.content_getElem, Text.filled_byte_of_lt h h2]

end

theorem Text.terminate_byte_of_ne {t : Text} {i : Nat} (h : i ≠ t.len.toNat) : t.terminate.byte i = t.byte i := by
  simp only [Text.byte, Text.terminate]
  by_cases h10 : i < 10
  · simp [h10, Vector.getElem_setIfInBounds_ne, Ne.symm h]
  · simp [h10]

theorem Text.terminate_byte_len {t : Text} : t.terminate.byte t.len.toNat = 0x00 := by
  simp only [Text.byte, Text.terminate]
  by_cases h10 : t.len.toNat < 10 <;> simp [h10]

theorem Text.terminate_content (t : Text) : t.terminate.content = t.content := by
  simp only [Text.content, Text.terminate_len]
  exact List.map_congr_left fun i hi => Text.terminate_byte_of_ne (Nat.ne_of_lt (List.mem_range.1 hi))

/-! ## `receive_text` run to its end -/

/-- A unit whose `receive_text` has taken `i` bytes of the text that its queue held. -/
def State.receiving (s : State) (r : Role) (text rest : List Byte) (i : Nat) : State :=
  s.setBlock r { s.block r with
    rxq := text.drop i ++ 0x00 :: rest, pbuf := (s.block r).pbuf.filled (text.take i), act := .inReceiveText }

/-- A unit whose `receive_text` has taken the text and its terminator. -/
def State.received (s : State) (r : Role) (text rest : List Byte) : State :=
  s.setBlock r { s.block r with rxq := rest, pbuf := ((s.block r).pbuf.filled text).terminate, act := .idle }

section
variable {r : Role} {s : State} {text rest : List Byte}

@[simp] theorem State.receiving_block (i : Nat) : (s.receiving r text rest i).block r = { s.block r with
    rxq := text.drop i ++ 0x00 :: rest, pbuf := (s.block r).pbuf.filled (text.take i), act := .inReceiveText } :=
  State.block_setBlock _ _ _

@[simp] theorem State.receiving_cur (i : Nat) : (s.receiving r text rest i).cur = s.cur := State.setBlock_cur _ _ _

theorem State.beginReceive_eq_receiving (hq : (s.block r).rxq = text ++ 0x00 :: rest) :
    s.beginReceive r = s.receiving r text rest 0 := by
  simp only [State.beginReceive, State.receiving, List.drop_zero, List.take_zero, Text.filled_nil, ← hq]

theorem receiveTextByte_receiving (hlen : text.length ≤ 9) (hne : ∀ b ∈ text, b ≠ 0x00) {i : Nat} (hi : i < text.length) :
    receiveTextByte r (s.receiving r text rest i) = .next (s.receiving r text rest (i + 1)) := by
  have hq : ((s.receiving r text rest i).block r).rxq = text[i] :: (text.drop (i + 1) ++ 0x00 :: rest) := by
    rw [State.receiving_block, List.drop_eq_getElem_cons hi]
    rfl
  have hp : ((s.receiving r text rest i).block r).pbuf.append text[i] = some ((s.block r).pbuf.filled (text.take (i + 1))) := by
    have htake : text.take (i + 1) = text.take i ++ [text[i]] := by
      rw [List.take_add_one, List.getElem?_eq_getElem hi]
      rfl
    rw [State.receiving_block, htake]
    exact Text.filled_append (by rw [List.length_take]; omega) _
  rw [receiveTextByte_of_append hq (hne _ (List.getElem_mem hi)) hp]
  simp [State.receiving]

theorem receiveTextByte_received :
    receiveTextByte r (s.receiving r text rest text.length) = .next (s.received r text rest) := by
  rw [receiveTextByte_of_terminator (rest := rest) (by simp)]
  simp [State.receiving, State.received]

theorem opReceiveText_receiving (hw : (s.block r).timer.waiting = false) (i : Nat) :
    opReceiveText r (s.receiving r text rest i) = receiveTextByte r (s.receiving r text rest i) :=
  opReceiveText_of_begun (by simpa using hw) (by simp)

theorem opReceiveText_begin (hr : (s.block r).ready = true) (hq : (s.block r).rxq = text ++ 0x00 :: rest) :
    opReceiveText r s = opReceiveText r (s.receiving r text rest 0) := by
  rw [opReceiveText_of_ready hr, State.beginReceive_eq_receiving hq, opReceiveText_receiving ((Block.ready_iff _).1 hr).1]

end

/-- Settles O29: the text's bytes one by one, then the terminator. -/
theorem receiveTextFillsTheBuffer : Obligations.ReceiveTextFillsTheBuffer := by
  intro s text rest hr hlen hne hq
  obtain ⟨hw, ha⟩ := (Block.ready_iff _).1 hr
  have hfilled : ((s.block s.cur).pbuf.filled text).len.toNat = text.length := Text.filled_len (by omega)
  refine ⟨((s.block s.cur).pbuf.filled text).terminate, ?run, ?content, hfilled, ?terminator, fun i hi => ?behind⟩
  case run =>
    have hrun := execTimes_of_steps (i := .receiveText) (Steps.of_begin (σ := s.receiving s.cur text rest) (n := text.length)
      (fun v hv => by rwa [exec_receiveText, State.receiving_cur, ← opReceiveText_begin hr hq] at hv)
      (fun i hi => by rw [exec_receiveText, State.receiving_cur, opReceiveText_receiving hw, receiveTextByte_receiving hlen hne hi])
      (by rw [exec_receiveText, State.receiving_cur, opReceiveText_receiving hw, receiveTextByte_received]))
    rw [hrun, State.received, ← ha]
  case content => rw [Text.terminate_content, Text.filled_content (by omega)]
  case terminator => rw [← hfilled, Text.terminate_byte_len]
  case behind => rw [Text.terminate_byte_of_ne (by omega), Text.filled_byte_of_le (by omega)]

/-! ## `send_frame` -/

theorem exec_sendFrame (op : Byte) (buf : Option BufSel) (s : State) :
    exec (.sendFrame op buf) s = runExpansion s.cur (.sendFrame op buf) (opSendByte s.cur op) s := rfl

/-- The first word of the expansion is done at once: what is left of it stays on the port, before what was there. -/
theorem exec_sendFrame_of_ready {s : State} (hr : (s.block s.cur).ready = true) (op : Byte) (buf : Option BufSel) {ws : List Opw}
    (hws : opWords (expand (.sendFrame op buf)) = packOpw 0x8#4 0#16 0#16 0#3 0#1 op :: ws) :
    exec (.sendFrame op buf) s =
      .next ((s.setBlock s.cur { s.block s.cur with opDone := true, port := ws ++ (s.block s.cur).port }).setBlock s.cur.peer
        { s.block s.cur.peer with rxq := (s.block s.cur.peer).rxq ++ [op] }) := by
  obtain ⟨-, ha⟩ := (Block.ready_iff _).1 hr
  rw [exec_sendFrame, runExpansion_of_ready hr, opSendByte_of_ready (by simpa [Block.ready] using hr), hws]
  simp [finishPort, Block.finishPort, ha]

/-- Settles O30: the expansion's words, with and without a buffer. -/
theorem sendFrameSendsTheOpcodeFirst : Obligations.SendFrameSendsTheOpcodeFirst := fun _ op hr =>
  ⟨exec_sendFrame_of_ready hr op none rfl, exec_sendFrame_of_ready hr op (some .pbuf) rfl,
    exec_sendFrame_of_ready hr op (some .xbuf) rfl⟩

end Sys2Proof.Machine
end

section
/-! PROOFS. The rows of the control unit's step tables as equations (rules R192, R194, R196, R198, R200), and the instruction that a
foreground's turn runs (rules R103, R191, R226). -/

namespace Sys2Proof.Machine

/-! ## A command in its own state -/

section
variable {s t : State}

/-- A step that has issued an operation which has not completed. -/
theorem afterOp_of_busy {r : Role} (h : (t.block r).act ≠ .idle) (adv : State → State) : afterOp r adv (.next t) = .next t :=
  if_neg h

theorem State.ctrlGo_of_st {st : CtrlState} (hst : s.ctrlShell.st = st) (k : BitVec 5) :
    s.ctrlGo st k = { s with ctrlShell := { s.ctrlShell with step := k } } := by
  subst hst
  rfl

/-- A row that waits: the operation begins, and the row stays (rule R192). -/
theorem afterOp_wait_of_idle {r : Role} {n : Tick} (hn : n ≠ 0) (b : Count) (hw : (s.block r).timer.waiting = false)
    (ha : (s.block r).act = .idle) (ht : (s.block r).timer.ticks = 0) (adv : State → State) :
    afterOp r adv (opWaitTicks r n 0 b 5 .cmp s) =
      .next (s.setBlock r { s.block r with timer := (s.block r).timer.delaying n b, act := .inWait }) := by
  rw [opWaitTicks_of_divisor ((Block.ready_iff _).2 ⟨hw, ha⟩) ht rfl, Timer.beginWait, if_neg hn, if_neg hn]
  exact afterOp_of_busy (by simp) adv

/-- A row whose wait has completed moves on. -/
theorem afterOp_wait_of_completed {r : Role} {n : Tick} {b : Count} (hw : (s.block r).timer.waiting = false)
    (ha : (s.block r).act = .inWait) (adv : State → State) :
    afterOp r adv (opWaitTicks r n 0 b 5 .cmp s) = .next (adv (s.setBlock r { s.block r with act := .idle })) := by
  rw [opWaitTicks_of_completed hw ha]
  exact afterOp_of_idle (by simp) adv

/-- A row that sends a byte moves on at once: `send_byte` never blocks. -/
theorem afterOp_sendByte_of_ready {r : Role} (hr : (s.block r).ready = true) (b : Byte) (adv : State → State) :
    afterOp r adv (opSendByte r b s) = .next (adv (s.push r.peer b)) := by
  rw [opSendByte_of_ready hr]
  exact afterOp_of_idle (by simp [((Block.ready_iff _).1 hr).2]) adv

/-- The control unit's shell is enabled and stands in a command's own state (rules R190, R192). -/
structure State.InHandler (s : State) (st : CtrlState) : Prop where
  booted : s.ctrlShell.booted = true
  waiting : s.ctrl.timer.waiting = false
  st : s.ctrlShell.st = st

theorem State.InHandler.commandStep_eq {st : CtrlState} (h : s.InHandler st) (hn : st ≠ .wait) (own : State → Result) :
    commandStep st own s = own s := by
  have hen : s.ctrlEnabled = true := by simp [State.ctrlEnabled, h.booted, h.waiting]
  simp [commandStep, hen, h.st, hn]

theorem exec_cmdSetpw (h : s.InHandler .setpw) : exec .cmdSetpw s = setpwStep s := h.commandStep_eq nofun setpwStep

theorem exec_cmdVerify (h : s.InHandler .verify) : exec .cmdVerify s = verifyStep s := h.commandStep_eq nofun verifyStep

theorem exec_cmdOpen (h : s.InHandler .open) : exec .cmdOpen s = openStep s := h.commandStep_eq nofun openStep

theorem exec_cmdLock (h : s.InHandler .lock) : exec .cmdLock s = lockStep s := h.commandStep_eq nofun lockStep

/-! ## `C_SETPW` -/

theorem setpwStep_payload (hk : s.ctrlShell.step = 0) :
    setpwStep s = afterOp .ctrl (·.ctrlGo .setpw 1) (opReceiveText .ctrl s) := by
  simp [setpwStep, hk]

theorem setpwStep_clearIdx (hst : s.ctrlShell.st = .setpw) (hk : s.ctrlShell.step = 1) :
    setpwStep s = .next { s with ctrlShell := { s.ctrlShell with idx := 0, step := 2 } } := by
  simp [setpwStep, hk, State.ctrlGo, State.ctrlSetIdx, hst]

theorem setpwStep_copied (hst : s.ctrlShell.st = .setpw) (hk : s.ctrlShell.step = 2) (hi : s.ctrlShell.idx = s.ctrl.pbuf.len) :
    setpwStep s = .next { s with ctrlShell := { s.ctrlShell with step := 3 } } := by
  simp [setpwStep, hk, hi, State.ctrlGo_of_st hst]

theorem setpwStep_copy (hk : s.ctrlShell.step = 2) (hi : s.ctrlShell.idx ≠ s.ctrl.pbuf.len) :
    setpwStep s = .next { s with
      store := s.store.write (storeAddr s.params s.ctrlShell.idx.toNat) (s.ctrl.pbuf.byte s.ctrlShell.idx.toNat)
      ctrlShell := { s.ctrlShell with idx := s.ctrlShell.idx + 1 } } := by
  simp [setpwStep, hk, hi, State.ctrlSetIdx, State.storeByte]

theorem setpwStep_keepLength (hk : s.ctrlShell.step = 3) :
    setpwStep s = .next { s with ctrlShell := { s.ctrlShell with pwlen := s.ctrl.pbuf.len, st := .wait, step := 0 } } := by
  simp [setpwStep, hk]
  rfl

/-! ## `C_VERIFY` -/

theorem verifyStep_payload (hk : s.ctrlShell.step = 0) :
    verifyStep s = afterOp .ctrl (·.ctrlGo .verify 1) (opReceiveText .ctrl s) := by
  simp [verifyStep, hk]

theorem verifyStep_clearIdx (hst : s.ctrlShell.st = .verify) (hk : s.ctrlShell.step = 1) :
    verifyStep s = .next { s with ctrlShell := { s.ctrlShell with idx := 0, step := 2 } } := by
  simp [verifyStep, hk, State.ctrlGo, State.ctrlSetIdx, hst]

theorem verifyStep_readBack (hst : s.ctrlShell.st = .verify) (hk : s.ctrlShell.step = 2) (hi : s.ctrlShell.idx = s.ctrlShell.pwlen) :
    verifyStep s = .next { s with ctrlShell := { s.ctrlShell with step := 3 } } := by
  simp [verifyStep, hk, hi, State.ctrlGo_of_st hst]

theorem verifyStep_read (hk : s.ctrlShell.step = 2) (hi : s.ctrlShell.idx ≠ s.ctrlShell.pwlen) :
    verifyStep s = .next { s with
      ctrl := { s.ctrl with xbuf := s.ctrl.xbuf.setByte s.ctrlShell.idx.toNat (s.storedByte s.ctrlShell.idx.toNat) }
      ctrlShell := { s.ctrlShell with idx := s.ctrlShell.idx + 1 } } := by
  simp [verifyStep, hk, hi, State.ctrlSetIdx]

theorem verifyStep_terminate (hst : s.ctrlShell.st = .verify) (hk : s.ctrlShell.step = 3) :
    verifyStep s = .next { s with
      ctrl := { s.ctrl with xbuf := { s.ctrl.xbuf with len := s.ctrlShell.pwlen }.terminate }
      ctrlShell := { s.ctrlShell with step := 4 } } := by
  simp [verifyStep, hk, State.ctrlGo, hst]

theorem verifyStep_reply (hr : s.ctrl.ready = true) (hk : s.ctrlShell.step = 4) :
    verifyStep s = .next { s with
      hmi := { s.hmi with rxq := s.hmi.rxq ++ [if textsMatch s.ctrl.pbuf s.ctrl.xbuf then 0x31 else 0x30] }
      ctrlShell := { s.ctrlShell with st := .wait, step := 0 } } := by
  have hsend : verifyStep s = afterOp .ctrl (·.ctrlGo .wait 0)
      (opSendByte .ctrl (if textsMatch s.ctrl.pbuf s.ctrl.xbuf then 0x31 else 0x30) s) := by simp [verifyStep, hk]
  rw [hsend, afterOp_sendByte_of_ready (r := .ctrl) hr]
  rfl

/-! ## `C_OPEN` and `C_LOCK` -/

theorem openStep_delay15s {k : BitVec 5} (h : k = 1 ∨ k = 7) (hk : s.ctrlShell.step = k) :
    openStep s = afterOp .ctrl (·.ctrlGo .open (k + 1)) (opDelay15s .ctrl s) := by
  rcases h with rfl | rfl <;> simp [openStep, hk]

theorem openStep_delay1s {k : BitVec 5} (h : k = 3 ∨ k = 4 ∨ k = 5) (hk : s.ctrlShell.step = k) :
    openStep s = afterOp .ctrl (·.ctrlGo .open (k + 1)) (opDelay1s .ctrl s) := by
  rcases h with rfl | rfl | rfl <;> simp [openStep, hk]

theorem lockStep_delay15s {k : BitVec 5} (h : k = 1 ∨ k = 2 ∨ k = 3 ∨ k = 4) (hk : s.ctrlShell.step = k) :
    lockStep s = afterOp .ctrl (·.ctrlGo .lock (k + 1)) (opDelay15s .ctrl s) := by
  rcases h with rfl | rfl | rfl | rfl <;> simp [lockStep, hk]

theorem doorOf_open (k : BitVec 5) :
    (doorOf .open k = .opening ↔ k = 1 ∨ k = 2) ∧ (doorOf .open k = .open ↔ k = 3 ∨ k = 4 ∨ k = 5 ∨ k = 6)
      ∧ (doorOf .open k = .closing ↔ k = 7 ∨ k = 8) := by
  revert k
  decide

theorem doorOf_of_ne_open {st : CtrlState} (h : st ≠ .open) (k : BitVec 5) : doorOf st k = .closed := by
  match st with
  | .open => exact absurd rfl h
  | .wait | .setpw | .verify | .lock => rfl

end

/-- Settles O34: the rows of `C_SETPW` one by one. -/
theorem setpwCopiesTheText : Obligations.SetpwCopiesTheText := by
  intro s hb hw hst c
  rw [exec_cmdSetpw ⟨hb, hw, hst⟩]
  exact ⟨setpwStep_clearIdx hst, setpwStep_copied hst, setpwStep_copy, setpwStep_keepLength⟩

/-- Settles O35: the rows of `C_VERIFY` one by one, the reply by what makes two texts match. -/
theorem verifyReadsBackAndReplies : Obligations.VerifyReadsBackAndReplies := by
  intro s hb hr hst c
  rw [exec_cmdVerify ⟨hb, ((Block.ready_iff _).1 hr).1, hst⟩]
  refine ⟨verifyStep_clearIdx hst, verifyStep_readBack hst, verifyStep_read, verifyStep_terminate hst,
    fun hk => ⟨_, verifyStep_reply hr hk, ?_, ?_⟩⟩
  · split
    · exact .inl rfl
    · exact .inr rfl
  · have hmatch : textsMatch s.ctrl.pbuf s.ctrl.xbuf = true ↔
        s.ctrl.pbuf.len = s.ctrl.xbuf.len ∧ ∀ i < s.ctrl.xbuf.len.toNat, s.ctrl.pbuf.byte i = s.ctrl.xbuf.byte i := by
      rw [textsMatch_iff]
      exact and_congr_right fun hlen => by rw [hlen]
    rw [← hmatch]
    split <;> simp_all

/-- The payload step of a handler, from the transition of `receive_text` it takes. -/
theorem afterOp_payload {s t : State} {st : CtrlState} (hst : s.ctrlShell.st = st) (hk : s.ctrlShell.step = 0)
    (h : opReceiveText .ctrl s = .next t) :
    afterOp .ctrl (·.ctrlGo st 1) (opReceiveText .ctrl s) =
      .next { t with ctrlShell := { s.ctrlShell with step := if t.ctrl.act = .idle then 1 else 0 } } := by
  have hshell : t.ctrlShell = s.ctrlShell := (opReceiveText_effect h).ctrlShell
  rw [h]
  by_cases ha : t.ctrl.act = .idle
  · rw [afterOp_of_idle (r := .ctrl) ha, State.ctrlGo_of_st (hshell ▸ hst), if_pos ha, hshell]
  · rw [afterOp_of_busy (r := .ctrl) ha, if_neg ha, ← hk, ← hshell]

/-- Settles O36: both handlers' step 0 is the one operation. -/
theorem payloadStepIsReceiveText : Obligations.PayloadStepIsReceiveText := by
  intro s hcur hb hw hk
  rw [exec_receiveText, hcur]
  have hsetpw (hst : s.ctrlShell.st = .setpw) : exec .cmdSetpw s = afterOp .ctrl (·.ctrlGo .setpw 1) (opReceiveText .ctrl s) :=
    (exec_cmdSetpw ⟨hb, hw, hst⟩).trans (setpwStep_payload hk)
  have hverify (hst : s.ctrlShell.st = .verify) : exec .cmdVerify s = afterOp .ctrl (·.ctrlGo .verify 1) (opReceiveText .ctrl s) :=
    (exec_cmdVerify ⟨hb, hw, hst⟩).trans (verifyStep_payload hk)
  refine ⟨?moves, ?faults⟩
  case moves =>
    intro t h k
    exact ⟨fun hst => (hsetpw hst).trans (afterOp_payload hst hk h), fun hst => (hverify hst).trans (afterOp_payload hst hk h)⟩
  case faults =>
    intro e h
    exact ⟨fun hst => by rw [hsetpw hst, h]; rfl, fun hst => by rw [hverify hst, h]; rfl⟩

/-- Settles O37: the door by its positions, the rows that write `MOTOR` at once, the delay rows by their wait. -/
theorem openRunsTheActuationSequence : Obligations.OpenRunsTheActuationSequence := by
  refine ⟨?door, ?rows⟩
  case door =>
    intro st k
    by_cases hst : st = .open
    · subst hst
      simpa using doorOf_open k
    · simp [doorOf_of_ne_open hst, hst]
  case rows =>
    intro s hb hw hst c
    rw [exec_cmdOpen ⟨hb, hw, hst⟩]
    have hmoved (k : BitVec 5) : (s.setBlock .ctrl { s.ctrl with act := .idle }).ctrlGo .open k =
        { s with ctrl := { s.ctrl with act := .idle }, ctrlShell := { c with step := k } } :=
      State.ctrlGo_of_st (s := s.setBlock .ctrl { s.ctrl with act := .idle }) hst k
    refine ⟨fun hk => ?_, fun hk => ?_, fun hk => ?_, fun hk => ?_, fun hk ha ht => ?_, fun hk ha ht => ?_, fun hk ha => ?_⟩
    · simp [openStep, c, show s.ctrlShell.step = 0 from hk, State.ctrlGo, State.setMotor, hst]
    · simp [openStep, c, show s.ctrlShell.step = 2 from hk, State.ctrlGo, State.setMotor, hst]
    · simp [openStep, c, show s.ctrlShell.step = 6 from hk, State.ctrlGo, State.setMotor, hst]
    · simp [openStep, c, show s.ctrlShell.step = 8 from hk, State.ctrlGo, State.setMotor]
    · rw [openStep_delay15s hk rfl]
      exact afterOp_wait_of_idle (r := .ctrl) (by decide) 58593 hw ha ht _
    · rw [openStep_delay1s hk rfl]
      exact afterOp_wait_of_idle (r := .ctrl) (by decide) 7811 hw ha ht _
    · have hk : (c.step = 1 ∨ c.step = 7) ∨ (c.step = 3 ∨ c.step = 4 ∨ c.step = 5) := by tauto
      rcases hk with hk | hk
      · rw [openStep_delay15s hk rfl]
        exact (afterOp_wait_of_completed (r := .ctrl) hw ha _).trans (congrArg _ (hmoved _))
      · rw [openStep_delay1s hk rfl]
        exact (afterOp_wait_of_completed (r := .ctrl) hw ha _).trans (congrArg _ (hmoved _))

/-- Settles O38: the two rows that write `ALARM` at once, the delay rows by their wait. -/
theorem lockHoldsTheAlarm : Obligations.LockHoldsTheAlarm := by
  intro s hb hw hst c
  rw [exec_cmdLock ⟨hb, hw, hst⟩]
  refine ⟨fun hk => ?_, fun hk => ?_, fun hk ha ht => ?_, fun hk ha => ?_⟩
  · simp [lockStep, c, show s.ctrlShell.step = 0 from hk, State.ctrlGo, State.setAlarm, hst]
  · simp [lockStep, c, show s.ctrlShell.step = 5 from hk, State.ctrlGo, State.setAlarm]
  · rw [lockStep_delay15s hk rfl]
    exact afterOp_wait_of_idle (r := .ctrl) (by decide) 58593 hw ha ht _
  · rw [lockStep_delay15s hk rfl]
    exact (afterOp_wait_of_completed (r := .ctrl) hw ha _).trans
      (congrArg _ (State.ctrlGo_of_st (s := s.setBlock .ctrl { s.ctrl with act := .idle }) hst _))

/-! ## The instruction a turn runs -/

section
variable {s : State}

theorem foregroundStep_of_port {r : Role} (hw : (s.block r).timer.waiting = false) {w : Opw} {ws : List Opw}
    (hp : (s.block r).port = w :: ws) : foregroundStep r s = finishPort r (exec (decodeOpw w) s) := by
  simp [foregroundStep, hw, hp]

theorem ctrlInstr_of_wait_cons (hst : s.ctrlShell.st = .wait) {b : Byte} {q : List Byte} (hq : s.ctrl.rxq = b :: q) :
    ctrlInstr s = some (decodeCmd b) := by
  rw [ctrlInstr_of_wait hst, hq]
  rfl

theorem ctrlInstr_of_wait_nil (hst : s.ctrlShell.st = .wait) (hq : s.ctrl.rxq = []) : ctrlInstr s = none := by
  rw [ctrlInstr_of_wait hst, hq]
  rfl

/-- In a handler's state the shell is at the handler's command. -/
theorem ctrlInstr_of_handler {st : CtrlState} (hst : s.ctrlShell.st = st) {i : Instr} (hi : i.stream = .cmd)
    (hd : dispatchState i = st) (hn : st ≠ .wait) : ctrlInstr s = some i := by
  subst hd
  cases i with
  | cmdIgnored b => exact absurd rfl hn
  | cmdSetpw | cmdVerify | cmdOpen | cmdLock => simp only [ctrlInstr, hst, dispatchState]
  | _ => cases hi

theorem shellStep_ctrl_of_instr {i : Instr} (h : ctrlInstr s = some i) : shellStep .ctrl s = exec i s := by
  simp only [shellStep, h]

theorem shellStep_ctrl_of_none (h : ctrlInstr s = none) : shellStep .ctrl s = .next s := by
  simp only [shellStep, h]

theorem shellStep_hmi_of_instr {i : Instr} (h : hmiInstr s = some i) : shellStep .hmi s = exec i s := by
  simp only [shellStep, h]

theorem hmiInstr_of_receiving (hst : s.hmiShell.st = .verify) (hk : s.hmiShell.step = 4) {b : Byte} {q : List Byte}
    (hq : s.hmi.rxq = b :: q) : hmiInstr s = some (decodeRsp b) := by
  simp [hmiInstr, hst, hk, hq]

theorem hmiInstr_of_received (hst : s.hmiShell.st = .verify)
    (hk : s.hmiShell.step = 5 ∨ s.hmiShell.step = 6 ∨ s.hmiShell.step = 7) : hmiInstr s = some (decodeRsp s.hmiShell.resp) := by
  rcases hk with hk | hk | hk <;> simp [hmiInstr, hst, hk]

/-- At `H_VERIFY` step 4 the shell has no step of its own: on an empty queue it blocks. -/
theorem shellStep_hmi_of_no_response (hst : s.hmiShell.st = .verify) (hk : s.hmiShell.step = 4) (hq : s.hmi.rxq = []) :
    shellStep .hmi s = .next s := by
  have hinstr : hmiInstr s = none := by simp [hmiInstr, hst, hk, hq]
  simp [shellStep, hinstr, hmiShellStep, hst, hk]

end

/-- Settles O54: the port's word, then each shell's instruction by the place it stands at. -/
theorem stepRunsTheDecodedInstruction : Obligations.StepRunsTheDecodedInstruction := by
  refine ⟨fun s r rest w ws ha hw hp => ?port, fun s rest hturn => ?ctrl, fun s rest hturn hst => ?hmi⟩
  case port =>
    have hport : step s = finishPort r (exec (decodeOpw w) (s.turn r rest)) :=
      (step_of_agenda ha).trans (foregroundStep_of_port (s := s.turn r rest) (by simpa using hw) (by simpa using hp))
    rw [hport]
    cases exec (decodeOpw w) (s.turn r rest) <;> rfl
  case ctrl =>
    rw [hturn.step_eq]
    have hcommand {i : Instr} (hst : s.ctrlShell.st = dispatchState i) (hi : i.stream = .cmd) (hn : dispatchState i ≠ .wait) :
        shellStep .ctrl (s.turn .ctrl rest) = exec i (s.turn .ctrl rest) :=
      shellStep_ctrl_of_instr (ctrlInstr_of_handler hst hi rfl hn)
    exact ⟨fun b q hst hq => shellStep_ctrl_of_instr (ctrlInstr_of_wait_cons hst hq),
      fun hst hq => shellStep_ctrl_of_none (ctrlInstr_of_wait_nil hst hq),
      fun hst => hcommand hst rfl nofun, fun hst => hcommand hst rfl nofun, fun hst => hcommand hst rfl nofun,
      fun hst => hcommand hst rfl nofun⟩
  case hmi =>
    rw [hturn.step_eq]
    exact ⟨fun b q hk hq => shellStep_hmi_of_instr (hmiInstr_of_receiving hst hk hq),
      fun hk hq => shellStep_hmi_of_no_response hst hk hq, fun hk => shellStep_hmi_of_instr (hmiInstr_of_received hst hk)⟩

end Sys2Proof.Machine
end

section
/-! PROOFS. The HMI shell's rows as equations: the responses, the captures, and the rows that send, show and wait (rules R222 to R230);
and the key that answers an open call (rule R52). -/

namespace Sys2Proof.Machine

/-! ## The responses -/

section
variable {s : State}

theorem State.hmiEnabled_of (hb : s.hmiShell.booted = true) (hw : s.hmi.timer.waiting = false) : s.hmiEnabled = true := by
  simp [State.hmiEnabled, hb, hw]

/-- The HMI unit's shell is enabled and stands in `H_VERIFY` (rules R220, R226). -/
structure State.InVerify (s : State) : Prop where
  booted : s.hmiShell.booted = true
  waiting : s.hmi.timer.waiting = false
  st : s.hmiShell.st = .verify

section
variable (h : s.InVerify) (b : Byte) (msg : DispMsg) (decision : State → State)
include h

theorem State.InVerify.guard : s.hmiEnabled = true ∧ s.hmiShell.st = .verify := ⟨State.hmiEnabled_of h.booted h.waiting, h.st⟩

theorem responseStep_take (hk : s.hmiShell.step = 4) {b' : Byte} {rest : List Byte} (hq : s.hmi.rxq = b' :: rest) :
    responseStep b msg decision s =
      .next { s with hmi := { s.hmi with rxq := rest }, hmiShell := { s.hmiShell with resp := b, step := 5 } } := by
  simp [responseStep, h.guard, hk, takeResponse, hq, State.hmiGo]

theorem responseStep_show (hk : s.hmiShell.step = 5) :
    responseStep b msg decision s = .next { s with disp := s.disp ++ [msg], hmiShell := { s.hmiShell with step := 6 } } := by
  simp [responseStep, h.guard, hk, State.hmiGo, State.show]

theorem responseStep_hold (hk : s.hmiShell.step = 6) :
    responseStep b msg decision s = afterOp .hmi (·.hmiGo .verify 7) (opDelay1s .hmi s) := by
  simp [responseStep, h.guard, hk]

theorem responseStep_holds (hk : s.hmiShell.step = 6) (ha : s.hmi.act = .idle) (ht : s.hmi.timer.ticks = 0) :
    responseStep b msg decision s =
      .next { s with hmi := { s.hmi with timer := s.hmi.timer.delaying 1 7811, act := .inWait } } :=
  (responseStep_hold h b msg decision hk).trans (afterOp_wait_of_idle (r := .hmi) (by decide) 7811 h.waiting ha ht _)

theorem responseStep_held (hk : s.hmiShell.step = 6) (ha : s.hmi.act = .inWait) :
    responseStep b msg decision s =
      .next { s with hmi := { s.hmi with act := .idle }, hmiShell := { s.hmiShell with step := 7 } } :=
  calc responseStep b msg decision s = afterOp .hmi (·.hmiGo .verify 7) (opDelay1s .hmi s) := responseStep_hold h b msg decision hk
    _ = .next ((s.setBlock .hmi { s.hmi with act := .idle }).hmiGo .verify 7) := afterOp_wait_of_completed (r := .hmi) h.waiting ha _
    _ = _ := congrArg _ (State.hmiGo_of_st (s := s.setBlock .hmi { s.hmi with act := .idle }) h.st 7)

theorem responseStep_decide (hk : s.hmiShell.step = 7) : responseStep b msg decision s = .next (decision s) := by
  simp [responseStep, h.guard, hk]

end

theorem exec_rspMatch (s : State) : exec .rspMatch s = responseStep 0x31#8 .ok decideMatch s := rfl

theorem exec_rspNomatch (b : Byte) (s : State) : exec (.rspNomatch b) s = responseStep b .fail decideFail s := rfl

theorem decideMatch_of_open (ha : s.hmiShell.action = .open) :
    decideMatch s = { s with hmiShell := { s.hmiShell with st := .opening, step := 0 } } := by
  simp [decideMatch, ha, State.hmiGo]

theorem decideMatch_of_change (ha : s.hmiShell.action = .change) :
    decideMatch s = { s with hmiShell := { s.hmiShell with st := .setting, step := 0 } } := by
  simp [decideMatch, ha, State.hmiGo]

theorem decideFail_of_last (ht : s.hmiShell.trials = 1) :
    decideFail s = { s with hmiShell := { s.hmiShell with trials := 0, st := .locked, step := 0 } } := by
  simp [decideFail, ht, State.hmiGo]

theorem decideFail_of_more (ht : s.hmiShell.trials = 2 ∨ s.hmiShell.trials = 3) :
    decideFail s = { s with hmiShell := { s.hmiShell with trials := s.hmiShell.trials - 1, st := .verify, step := 0 } } := by
  rcases ht with ht | ht <;> simp [decideFail, ht, State.hmiGo]

end

/-- Settles O44: the steps of a response, and the decision on a match by the action chosen. -/
theorem matchGrantsTheChosenAction : Obligations.MatchGrantsTheChosenAction := by
  intro s hb hw hst h
  have hv : s.InVerify := ⟨hb, hw, hst⟩
  rw [exec_rspMatch]
  refine ⟨fun rest hk hq => responseStep_take hv _ _ _ hk hq, responseStep_show hv _ _ _, responseStep_holds hv _ _ _,
    responseStep_held hv _ _ _, fun hk ha => ?_, fun hk ha => ?_⟩
  · rw [responseStep_decide hv _ _ _ hk, decideMatch_of_open ha]
  · rw [responseStep_decide hv _ _ _ hk, decideMatch_of_change ha]

/-- Settles O45: the steps of a response, and the decision on a failed trial by the trials left. -/
theorem nomatchSpendsATrial : Obligations.NomatchSpendsATrial := by
  intro s b _ hb hw hst h
  have hv : s.InVerify := ⟨hb, hw, hst⟩
  rw [exec_rspNomatch]
  refine ⟨fun rest hk hq => responseStep_take hv _ _ _ hk hq, responseStep_show hv _ _ _, responseStep_holds hv _ _ _,
    responseStep_held hv _ _ _, fun hk ht => ?_, fun hk ht => ?_⟩
  · rw [responseStep_decide hv _ _ _ hk, decideFail_of_last ht]
  · rw [responseStep_decide hv _ _ _ hk, decideFail_of_more ht]

/-! ## The HMI shell's own rows -/

section
variable {s : State}

/-- The responses are read in `H_VERIFY` steps 4 to 7 only. -/
theorem hmiInstr_eq_none (h : s.hmiShell.st = .verify → s.hmiShell.step.toNat < 4) : hmiInstr s = none := by
  unfold hmiInstr
  split_ifs with hst h4 h5
  · exact absurd h4 (Nat.ne_of_lt (h hst))
  · exact absurd (h hst) (by omega)
  · rfl
  · rfl

theorem ShellTurn.step_eq_ownRow {rest : List Event} (h : ShellTurn s .hmi rest)
    (hv : s.hmiShell.st = .verify → s.hmiShell.step.toNat < 4) : step s = hmiShellStep (s.turn .hmi rest) := by
  have hi : hmiInstr (s.turn .hmi rest) = none := hmiInstr_eq_none hv
  rw [h.step_eq]
  simp only [shellStep, hi]

/-! ## The captures -/

theorem hmiShellStep_capturePbuf (hst : s.hmiShell.st = .verify ∨ s.hmiShell.st = .setting) (hk : s.hmiShell.step = 0) :
    hmiShellStep s = captureStep .pbuf .enter (fun u => u.hmiGo s.hmiShell.st 1) s := by
  rcases hst with hst | hst <;> simp [hmiShellStep, hst, hk]

theorem hmiShellStep_captureXbuf (hst : s.hmiShell.st = .setting) (hk : s.hmiShell.step = 1) :
    hmiShellStep s = captureStep .xbuf .confirm (fun u => u.hmiGo s.hmiShell.st 2) s := by
  simp [hmiShellStep, hst, hk]

section
variable {buf : BufSel} {prompt : DispMsg} {adv : State → State}

theorem captureStep_begin (ha : s.hmi.act = .idle) :
    captureStep buf prompt adv s =
      .next ({ s with hmi := { s.hmi.setText buf (s.hmi.text buf).clear with act := .inCapture } }.show prompt) := by
  simp only [captureStep, ha]

theorem captureStep_no_key (ha : s.hmi.act = .inCapture) (hkey : s.key = none) : captureStep buf prompt adv s = .next s := by
  simp only [captureStep, ha, hkey]

theorem captureStep_end (ha : s.hmi.act = .inCapture) (hkey : s.key = some 13) :
    captureStep buf prompt adv s = .next (adv { s with
      key := none, hmi := { s.hmi.setText buf (s.hmi.text buf).terminate with act := .idle } }) := by
  simp [captureStep, ha, hkey]

theorem captureStep_append (ha : s.hmi.act = .inCapture) {k : Byte} (hkey : s.key = some k) (hk : k ≠ 13) {t : Text}
    (ht : (s.hmi.text buf).append k = some t) :
    captureStep buf prompt adv s = .next ({ s with key := none, hmi := s.hmi.setText buf t }.show .mask) := by
  have hk : k ≠ 13#8 := hk
  simp [captureStep, ha, hkey, hk, ht]

theorem captureStep_full (ha : s.hmi.act = .inCapture) {k : Byte} (hkey : s.key = some k) (hk : k ≠ 13)
    (ht : (s.hmi.text buf).append k = none) : captureStep buf prompt adv s = .fault (.bufferOverflow k) := by
  have hk : k ≠ 13#8 := hk
  simp [captureStep, ha, hkey, hk, ht]

end

theorem ShellTurn.step_eq_capturePbuf {rest : List Event} (h : ShellTurn s .hmi rest)
    (hst : s.hmiShell.st = .verify ∨ s.hmiShell.st = .setting) (hk : s.hmiShell.step = 0) :
    step s = captureStep .pbuf .enter (fun u => u.hmiGo s.hmiShell.st 1) (s.turn .hmi rest) :=
  (h.step_eq_ownRow fun _ => by rw [hk]; decide).trans (hmiShellStep_capturePbuf (s := s.turn .hmi rest) hst hk)

theorem ShellTurn.step_eq_captureXbuf {rest : List Event} (h : ShellTurn s .hmi rest) (hst : s.hmiShell.st = .setting)
    (hk : s.hmiShell.step = 1) : step s = captureStep .xbuf .confirm (fun u => u.hmiGo s.hmiShell.st 2) (s.turn .hmi rest) :=
  (h.step_eq_ownRow fun _ => by rw [hk]; decide).trans (hmiShellStep_captureXbuf (s := s.turn .hmi rest) hst hk)

end

/-- Settles O47: both captures begin in the same way. -/
theorem captureBeginsWithPromptAndEmptyText : Obligations.CaptureBeginsWithPromptAndEmptyText := by
  intro s rest hturn ha u
  refine ⟨fun hst hk => ?_, fun hst hk => ?_⟩
  · exact (hturn.step_eq_capturePbuf hst hk).trans (captureStep_begin (s := u) ha)
  · exact (hturn.step_eq_captureXbuf hst hk).trans (captureStep_begin (s := u) ha)

/-- Settles O48: both captures take their key in the same way. -/
theorem captureTakesOneKeyAStep : Obligations.CaptureTakesOneKeyAStep := by
  intro s rest hturn ha u n x
  refine ⟨fun hst hk => ?pbuf, fun hst hk => ?xbuf⟩
  case pbuf =>
    rw [hturn.step_eq_capturePbuf hst hk]
    exact ⟨fun hkey => captureStep_no_key (s := u) ha hkey, fun hkey => captureStep_end (s := u) ha hkey,
      fun k hkey hne hn => captureStep_append (s := u) ha hkey hne (Text.append_of_lt hn k),
      fun k hkey hne hn => captureStep_full (s := u) ha hkey hne (Text.append_of_full hn k)⟩
  case xbuf =>
    rw [hturn.step_eq_captureXbuf hst hk]
    exact ⟨fun hkey => captureStep_no_key (s := u) ha hkey, fun hkey => captureStep_end (s := u) ha hkey,
      fun k hkey hne hn => captureStep_append (s := u) ha hkey hne (Text.append_of_lt hn k),
      fun k hkey hne hn => captureStep_full (s := u) ha hkey hne (Text.append_of_full hn k)⟩

/-! ## The rows that send, show and wait -/

section
variable {s : State}

theorem ShellTurn.step_eq_row {rest : List Event} (h : ShellTurn s .hmi rest) {st : HmiState} {k : BitVec 5}
    (hst : s.hmiShell.st = st) (hk : s.hmiShell.step = k) (hrow : st = .verify → k.toNat < 4) :
    step s = hmiShellStep (s.turn .hmi rest) :=
  h.step_eq_ownRow fun hv => hk ▸ hrow (hst ▸ hv)

/-- The rows that send an opcode byte: place and byte (rules R226, R228, R229, R230). -/
def sendRows : List (HmiState × BitVec 5 × Byte) :=
  [(.verify, 1, 0x31), (.locked, 0, 0x33), (.opening, 0, 0x32), (.setting, 4, 0x30)]

theorem hmiShellStep_send : ∀ row ∈ sendRows, s.hmiShell.st = row.1 → s.hmiShell.step = row.2.1 →
    hmiShellStep s = afterOp .hmi (·.hmiGo row.1 (row.2.1 + 1)) (opSendByte .hmi row.2.2 s) := by
  simp only [sendRows, List.forall_mem_cons, List.not_mem_nil, false_imp_iff, implies_true, and_true]
  refine ⟨?_, ?_, ?_, ?_⟩ <;> intro hst hk <;> simp [hmiShellStep, hst, hk]

/-- The rows that send the text (rules R226, R230). -/
def textRows : List (HmiState × BitVec 5) := [(.verify, 2), (.setting, 5)]

theorem hmiShellStep_sendText : ∀ row ∈ textRows, s.hmiShell.st = row.1 → s.hmiShell.step = row.2 →
    hmiShellStep s = afterOp .hmi (·.hmiGo row.1 (row.2 + 1)) (opSendText .hmi .pbuf s) := by
  simp only [textRows, List.forall_mem_cons, List.not_mem_nil, false_imp_iff, implies_true, and_true]
  refine ⟨?_, ?_⟩ <;> intro hst hk <;> simp [hmiShellStep, hst, hk]

/-- The rows that only show a message: place, message, next place (rules R222, R228, R229, R230). -/
def showRows : List (HmiState × BitVec 5 × DispMsg × HmiState × BitVec 5) :=
  [(.idle, 0, .menu, .choice, 0), (.locked, 1, .locked, .locked, 2), (.opening, 1, .unlocking, .opening, 2),
    (.opening, 3, .count 3, .opening, 4), (.opening, 5, .count 2, .opening, 6), (.opening, 7, .count 1, .opening, 8),
    (.opening, 9, .locking, .opening, 10), (.setting, 6, .saved, .setting, 7)]

theorem hmiShellStep_show : ∀ row ∈ showRows, s.hmiShell.st = row.1 → s.hmiShell.step = row.2.1 →
    hmiShellStep s = .next ((s.show row.2.2.1).hmiGo row.2.2.2.1 row.2.2.2.2) := by
  simp only [showRows, List.forall_mem_cons, List.not_mem_nil, false_imp_iff, implies_true, and_true]
  refine ⟨?_, ?_, ?_, ?_, ?_, ?_, ?_, ?_⟩ <;> intro hst hk <;> simp [hmiShellStep, hst, hk]

/-- The rows that wait: place, ticks and compare value of the delay, next place (rules R138, R139, R226, R228, R229, R230). -/
def waitRows : List (HmiState × BitVec 5 × Tick × Count × HmiState × BitVec 5) :=
  [(.verify, 3, 1, 7811, .verify, 4), (.locked, 2, 2, 58593, .locked, 3), (.locked, 3, 2, 58593, .locked, 4),
    (.locked, 4, 2, 58593, .locked, 5), (.locked, 5, 2, 58593, .idle, 0), (.opening, 2, 2, 58593, .opening, 3),
    (.opening, 4, 1, 7811, .opening, 5), (.opening, 6, 1, 7811, .opening, 7), (.opening, 8, 1, 7811, .opening, 9),
    (.opening, 10, 2, 58593, .idle, 0), (.setting, 3, 1, 7811, .setting, 0), (.setting, 7, 1, 7811, .idle, 0)]

theorem hmiShellStep_wait : ∀ row ∈ waitRows, s.hmiShell.st = row.1 → s.hmiShell.step = row.2.1 →
    hmiShellStep s = afterOp .hmi (·.hmiGo row.2.2.2.2.1 row.2.2.2.2.2) (opWaitTicks .hmi row.2.2.1 0 row.2.2.2.1 5 .cmp s) := by
  simp only [waitRows, List.forall_mem_cons, List.not_mem_nil, false_imp_iff, implies_true, and_true]
  refine ⟨?_, ?_, ?_, ?_, ?_, ?_, ?_, ?_, ?_, ?_, ?_, ?_⟩ <;> intro hst hk <;> simp [hmiShellStep, hst, hk, opDelay1s, opDelay15s]

/-- `send_text` always moves: it neither faults nor is refused. -/
theorem exists_opSendText_next (r : Role) (buf : BufSel) (s : State) : ∃ v, opSendText r buf s = .next v := by
  unfold opSendText
  dsimp only
  split
  · exact ⟨_, rfl⟩
  · split
    · exact ⟨_, rfl⟩
    · split <;> exact ⟨_, rfl⟩

/-- A row that sends the text, from the transition of `send_text` it takes. -/
theorem afterOp_sendText {v : State} {st : HmiState} {k : BitVec 5} (hst : s.hmiShell.st = st) (hk : s.hmiShell.step = k)
    (h : opSendText .hmi .pbuf s = .next v) :
    afterOp .hmi (·.hmiGo st (k + 1)) (opSendText .hmi .pbuf s) =
      .next { v with hmiShell := { s.hmiShell with step := if v.hmi.act = .idle then k + 1 else k } } := by
  have hshell : v.hmiShell = s.hmiShell := (opSendText_effect h).hmiShell
  rw [h]
  by_cases ha : v.hmi.act = .idle
  · rw [afterOp_of_idle (r := .hmi) ha, State.hmiGo_of_st (hshell ▸ hst), if_pos ha, hshell]
  · rw [afterOp_of_busy (r := .hmi) ha, if_neg ha, ← hk, ← hshell]

end

/-- Settles O50: the rows of each kind, by the operation they share. -/
theorem hmiRowsSendAndShow : Obligations.HmiRowsSendAndShow := by
  intro s rest hturn u
  have hw : s.hmi.timer.waiting = false := hturn.waiting
  refine ⟨fun ha row hrow hst hk => ?send, fun row hrow hst hk => ?text, fun row hrow hst hk => ?message⟩
  case send =>
    have hplace : ∀ row ∈ sendRows, row.1 = .verify → row.2.1.toNat < 4 := by decide
    have hr : (u.block .hmi).ready = true := (Block.ready_iff _).2 ⟨hw, ha⟩
    calc step s = hmiShellStep u := hturn.step_eq_row hst hk (hplace row hrow)
      _ = afterOp .hmi (·.hmiGo row.1 (row.2.1 + 1)) (opSendByte .hmi row.2.2 u) := hmiShellStep_send row hrow hst hk
      _ = .next ((u.push .ctrl row.2.2).hmiGo row.1 (row.2.1 + 1)) := afterOp_sendByte_of_ready hr _ _
      _ = _ := congrArg _ (State.hmiGo_of_st (s := u.push .ctrl row.2.2) hst _)
  case text =>
    have hplace : ∀ row ∈ textRows, row.1 = .verify → row.2.toNat < 4 := by decide
    obtain ⟨v, hv⟩ := exists_opSendText_next .hmi .pbuf u
    refine ⟨v, hv, ?_⟩
    calc step s = hmiShellStep u := hturn.step_eq_row hst hk (hplace row hrow)
      _ = afterOp .hmi (·.hmiGo row.1 (row.2 + 1)) (opSendText .hmi .pbuf u) := hmiShellStep_sendText row hrow hst hk
      _ = _ := afterOp_sendText (s := u) hst hk hv
  case message =>
    have hplace : ∀ row ∈ showRows, row.1 = .verify → row.2.1.toNat < 4 := by decide
    exact (hturn.step_eq_row hst hk (hplace row hrow)).trans (hmiShellStep_show (s := u) row hrow hst hk)

/-- Settles O51: every delay row is one `wait_ticks` of its profile. -/
theorem hmiRowsTakeTheirDelays : Obligations.HmiRowsTakeTheirDelays := by
  intro s rest hturn u row hrow hst hk
  have hw : (u.block .hmi).timer.waiting = false := hturn.waiting
  have hplace : ∀ row ∈ waitRows, row.1 = .verify → row.2.1.toNat < 4 := by decide
  have hticks : ∀ row ∈ waitRows, row.2.2.1 ≠ 0 := by decide
  have hrow' : step s = afterOp .hmi (·.hmiGo row.2.2.2.2.1 row.2.2.2.2.2)
      (opWaitTicks .hmi row.2.2.1 0 row.2.2.2.1 5 .cmp u) :=
    (hturn.step_eq_row hst hk (hplace row hrow)).trans (hmiShellStep_wait (s := u) row hrow hst hk)
  rw [hrow']
  exact ⟨fun ha ht => afterOp_wait_of_idle (r := .hmi) (hticks row hrow) _ hw ha ht _,
    fun ha => afterOp_wait_of_completed (r := .hmi) hw ha _⟩

/-! ## The key that answers an open call -/

/-- `Key()` is called where the running shell is in the menu or inside a capture, and is open until it has its answer. -/
theorem keyCallOpen_iff (s : State) : s.keyCallOpen = true ↔
    (s.hmi.fore = .shell ∧ s.hmiShell.booted = true ∧ s.hmi.timer.waiting = false
      ∧ ((s.hmiShell.st = .choice ∧ s.hmiShell.step = 0) ∨ s.hmi.act = .inCapture)) ∧ s.key = none := by
  simp only [State.keyCallOpen, State.hmiEnabled, Bool.and_eq_true, Bool.or_eq_true, beq_iff_eq, Bool.not_eq_true']
  tauto

theorem supplyKey_of_open {s : State} (h : s.keyCallOpen = true) (k : Byte) : supplyKey k s = { s with key := some k } := if_pos h

theorem supplyKey_of_not_open {s : State} (h : ¬s.keyCallOpen = true) (k : Byte) : supplyKey k s = s := if_neg h

/-- Settles O53: the turn of `ENV`, by whether a call is open. -/
theorem keysAreSeenOnlyByAnOpenCall : Obligations.KeysAreSeenOnlyByAnOpenCall := by
  intro s k rest ha called
  have hopen : State.keyCallOpen { s with agenda := rest } = true ↔ called ∧ s.key = none := keyCallOpen_iff _
  have hstep : step s = .next (supplyKey k { s with agenda := rest }) := step_of_agenda ha
  rw [hstep]
  exact ⟨fun hc hkey => congrArg _ (supplyKey_of_open (hopen.2 ⟨hc, hkey⟩) k),
    fun _ hkey => congrArg _ (supplyKey_of_not_open (fun h => hkey (hopen.1 h).2) k),
    fun hc => congrArg _ (supplyKey_of_not_open (fun h => hc (hopen.1 h).1) k)⟩

end Sys2Proof.Machine
end

section
/-! PROOFS. Runs along a list of turns, and the whole command frames that a control unit's shell serves by them (rules R192 to R203). -/

namespace Sys2Proof.Machine

/-! ## Runs along a list of turns -/

/-- The event leads from `s` to `t`, whatever the agenda holds after it. -/
def Turn (e : Event) (s t : State) : Prop := ∀ rest, takeTurn e { s with agenda := rest } = .next { t with agenda := rest }

/-- From `s` the turns of a list lead to `t`. -/
def Runs : List Event → State → State → Prop
  | [], s, t => s = t
  | e :: evs, s, t => ∃ u, Turn e s u ∧ Runs evs u t

section
variable {s t u : State} {e : Event} {evs evs' : List Event}

theorem Runs.single (h : Turn e s t) : Runs [e] s t := ⟨t, h, rfl⟩

theorem Runs.trans (h : Runs evs s t) (h' : Runs evs' t u) : Runs (evs ++ evs') s u := by
  induction evs generalizing s with
  | nil =>
    obtain rfl : s = t := h
    exact h'
  | cons e evs ih =>
    obtain ⟨v, hv, h⟩ := h
    exact ⟨v, hv, ih h⟩

theorem Runs.replicate {n : Nat} (h : Steps (Turn e) n s t) : Runs (List.replicate n e) s t := by
  induction n generalizing s with
  | zero => exact h
  | succ n ih =>
    obtain ⟨v, hv, h⟩ := h
    exact ⟨v, hv, ih h⟩

/-- Turns of one foreground; which unit moved before does not matter. -/
theorem Runs.of_steps {r : Role} {n : Nat} (h : Steps (Turn (.fg r)) (n + 1) { s with cur := r } t) :
    Runs (List.replicate (n + 1) (.fg r)) s t := by
  obtain ⟨v, hv, h⟩ := h
  exact ⟨v, hv, .replicate h⟩

theorem Runs.run_append (h : Runs evs s t) (rest : List Event) :
    Host.Core.run Sys2Proof.core evs.length { s with agenda := evs ++ rest } = .next { t with agenda := rest } := by
  rw [run_eq_runBy]
  induction evs generalizing s with
  | nil =>
    obtain rfl : s = t := h
    rfl
  | cons e evs ih =>
    obtain ⟨v, hv, h⟩ := h
    have hstep : nextTransitionBy Config.arbiter { s with agenda := e :: (evs ++ rest) } = .next { v with agenda := evs ++ rest } :=
      hv (evs ++ rest)
    simp only [List.length_cons, List.cons_append, runBy, hstep]
    exact ih h

/-- The run of a state whose agenda is just these turns. -/
theorem Runs.run_eq (h : Runs evs s t) (ha : s.agenda = evs) {n : Nat} (hn : evs.length = n) :
    Host.Core.run Sys2Proof.core n s = .next { t with agenda := [] } := by
  subst ha hn
  have := h.run_append []
  rwa [List.append_nil] at this

end

/-! ## A control unit that serves commands -/

/-- The control unit's booted shell, free to move, its foreground the moving one. -/
structure State.Serving (s : State) : Prop where
  fore : s.ctrl.fore = .shell
  port : s.ctrl.port = []
  booted : s.ctrlShell.booted = true
  ready : s.ctrl.ready = true
  cur : s.cur = .ctrl

section
variable {s : State} {text rest : List Byte}

theorem takeTurn_ctrl (hfore : s.ctrl.fore = .shell) (hport : s.ctrl.port = []) (hb : s.ctrlShell.booted = true)
    (hw : s.ctrl.timer.waiting = false) (hcur : s.cur = .ctrl) : takeTurn (.fg .ctrl) s = shellStep .ctrl s := by
  have hs : { s with cur := .ctrl } = s := by rw [← hcur]
  show foregroundStep .ctrl { s with cur := .ctrl } = _
  rw [hs]
  exact foregroundStep_of_booted_shell (r := .ctrl) hfore hport hb hw

theorem takeTurn_handler (hfore : s.ctrl.fore = .shell) (hport : s.ctrl.port = []) (hb : s.ctrlShell.booted = true)
    (hw : s.ctrl.timer.waiting = false) (hcur : s.cur = .ctrl) {i : Instr} (hst : s.ctrlShell.st = dispatchState i)
    (hi : i.stream = .cmd) (hn : dispatchState i ≠ .wait) : takeTurn (.fg .ctrl) s = exec i s :=
  (takeTurn_ctrl hfore hport hb hw hcur).trans (shellStep_ctrl_of_instr (ctrlInstr_of_handler hst hi rfl hn))

/-- What the two handlers with a payload share: their command, and their table's step 0. -/
structure PayloadHandler (st : CtrlState) (i : Instr) (own : State → Result) : Prop where
  state : dispatchState i = st
  stream : i.stream = .cmd
  notWait : st ≠ .wait
  exec : ∀ s : State, s.InHandler st → Machine.exec i s = own s
  payload : ∀ s : State, s.ctrlShell.step = 0 → own s = afterOp .ctrl (·.ctrlGo st 1) (opReceiveText .ctrl s)

theorem setpwHandler : PayloadHandler .setpw .cmdSetpw setpwStep := ⟨rfl, rfl, nofun, fun _ => exec_cmdSetpw, fun _ => setpwStep_payload⟩

theorem verifyHandler : PayloadHandler .verify .cmdVerify verifyStep :=
  ⟨rfl, rfl, nofun, fun _ => exec_cmdVerify, fun _ => verifyStep_payload⟩

section
variable {st : CtrlState} {i : Instr} {own : State → Result} (hh : PayloadHandler st i own)
include hh

theorem takeTurn_own (hfore : s.ctrl.fore = .shell) (hport : s.ctrl.port = []) (hb : s.ctrlShell.booted = true)
    (hw : s.ctrl.timer.waiting = false) (hcur : s.cur = .ctrl) (hst : s.ctrlShell.st = st) : takeTurn (.fg .ctrl) s = own s :=
  (takeTurn_handler hfore hport hb hw hcur (hst.trans hh.state.symm) hh.stream (hh.state.symm ▸ hh.notWait)).trans
    (hh.exec s ⟨hb, hw, hst⟩)

/-- A step of the handler's own table, as a run. -/
theorem State.Serving.turn_own (h : s.Serving) (hst : s.ctrlShell.st = st) {t : State}
    (ho : ∀ a, own { s with agenda := a } = .next { t with agenda := a }) : Turn (.fg .ctrl) s t := fun a =>
    (takeTurn_own hh (s := { s with agenda := a }) h.fore h.port h.booted ((Block.ready_iff _).1 h.ready).1 h.cur hst).trans (ho a)

/-- Step 0 of the handler takes the payload and its terminator, one byte a turn, and moves to step 1. -/
theorem State.Serving.steps_payload (h : s.Serving) (hst : s.ctrlShell.st = st) (hk : s.ctrlShell.step = 0)
    (hlen : text.length ≤ 9) (hne : ∀ b ∈ text, b ≠ 0x00) (hq : s.ctrl.rxq = text ++ 0x00 :: rest) :
    Steps (Turn (.fg .ctrl)) (text.length + 1) s ((s.received .ctrl text rest).ctrlGo st 1) := by
  have hw : s.ctrl.timer.waiting = false := ((Block.ready_iff _).1 h.ready).1
  have hturn (u : State) (hfore : u.ctrl.fore = .shell) (hport : u.ctrl.port = []) (hw : u.ctrl.timer.waiting = false)
      (hshell : u.ctrlShell = s.ctrlShell) (hcur : u.cur = .ctrl) (a : List Event) :
      takeTurn (.fg .ctrl) { u with agenda := a } = afterOp .ctrl (·.ctrlGo st 1) (opReceiveText .ctrl { u with agenda := a }) :=
    (takeTurn_own hh (s := { u with agenda := a }) hfore hport (hshell ▸ h.booted) hw hcur (hshell ▸ hst)).trans
      (hh.payload { u with agenda := a } (hshell ▸ hk))
  have hmid (i : Nat) (a : List Event) : takeTurn (.fg .ctrl) { s.receiving .ctrl text rest i with agenda := a } =
      afterOp .ctrl (·.ctrlGo st 1) (receiveTextByte .ctrl (State.receiving { s with agenda := a } .ctrl text rest i)) := by
    rw [hturn (s.receiving .ctrl text rest i) h.fore h.port hw rfl h.cur a]
    exact congrArg _ (opReceiveText_receiving (s := { s with agenda := a }) (r := .ctrl) hw i)
  refine Steps.of_begin (σ := s.receiving .ctrl text rest) (fun v hv a => ?begins)
    (fun i hi a => ?byte) (fun a => ?last)
  case begins =>
    have hv := hv a
    rw [hturn (s.receiving .ctrl text rest 0) h.fore h.port hw rfl h.cur a] at hv
    rw [hturn s h.fore h.port hw rfl h.cur a, ← hv]
    exact congrArg (afterOp .ctrl (·.ctrlGo st 1)) (opReceiveText_begin (s := { s with agenda := a }) (r := .ctrl) h.ready hq)
  case byte =>
    rw [hmid, receiveTextByte_receiving hlen hne hi]
    exact afterOp_of_busy (by rw [State.receiving_block]; exact nofun) _
  case last =>
    rw [hmid, receiveTextByte_received]
    exact afterOp_of_idle (by rw [State.received, State.block_setBlock]) _

/-- The dispatch of a frame and its payload. -/
theorem State.Serving.steps_frame_payload (h : s.Serving) (hst : s.ctrlShell.st = .wait) (hk : s.ctrlShell.step = 0) {op : Byte}
    (hop : decodeCmd op = i) (hlen : text.length ≤ 9) (hne : ∀ b ∈ text, b ≠ 0x00)
    (hq : s.ctrl.rxq = op :: (text ++ 0x00 :: rest)) :
    Steps (Turn (.fg .ctrl)) (text.length + 2) s ((s.received .ctrl text rest).ctrlGo st 1) := by
  have hw : s.ctrl.timer.waiting = false := ((Block.ready_iff _).1 h.ready).1
  have hentered : Turn (.fg .ctrl) s ({ s with ctrl := { s.ctrl with rxq := text ++ 0x00 :: rest } }.ctrlGo st 0) := by
    intro a
    rw [takeTurn_ctrl (s := { s with agenda := a }) h.fore h.port h.booted hw h.cur,
      shellStep_of_atDispatch_cons (s := { s with agenda := a }) ⟨h.booted, hw, hst, hk⟩ hq, hop, hh.state]
    rfl
  have hserving : State.Serving ({ s with ctrl := { s.ctrl with rxq := text ++ 0x00 :: rest } }.ctrlGo st 0) :=
    ⟨h.fore, h.port, h.booted, h.ready, h.cur⟩
  exact ⟨_, hentered, hserving.steps_payload hh rfl rfl hlen hne rfl⟩

end

/-! ## A `cmd_setpw` frame -/

/-- `STORE` after the copy loop has written the first `n` places of a text (rule R194). -/
def Memory.writeText (p : Params) (t : Text) (m : Memory) : Nat → Memory
  | 0 => m
  | n + 1 => (Memory.writeText p t m n).write (storeAddr p n) (t.byte n)

theorem Memory.read_writeText {p : Params} (hp : p.wf = true) (t : Text) (m : Memory) {n : Nat} (hn : n ≤ 9) {i : Nat} (hi : i < n) :
    (Memory.writeText p t m n).read (p.pwBase + i) = some (t.byte i) := by
  induction n with
  | zero => exact absurd hi (Nat.not_lt_zero i)
  | succ n ih =>
    rw [Memory.writeText, storeAddr_of_wf hp (by omega)]
    by_cases he : i = n
    · rw [he, Memory.read_write_same]
    · rw [Memory.read_write_other _ _ (by omega)]
      exact ih (by omega) (by omega)

theorem Memory.read_writeText_other {p : Params} (hp : p.wf = true) (t : Text) (m : Memory) {n : Nat} (hn : n ≤ 9) {a : Nat}
    (ha : ∀ i < n, a ≠ p.pwBase + i) : (Memory.writeText p t m n).read a = m.read a := by
  induction n with
  | zero => rfl
  | succ n ih =>
    rw [Memory.writeText, storeAddr_of_wf hp (by omega), Memory.read_write_other _ _ (ha n (Nat.lt_succ_self n))]
    exact ih (by omega) fun i hi => ha i (by omega)

/-- The buffer a payload text has been received into. -/
def Text.holding (t : Text) (l : List Byte) : Text := (t.filled l).terminate

theorem Text.holding_content {t : Text} {l : List Byte} (h : l.length ≤ 9) : (t.holding l).content = l := by
  rw [Text.holding, Text.terminate_content, Text.filled_content (by omega)]

theorem Text.holding_len {t : Text} {l : List Byte} (h : l.length ≤ 9) : (t.holding l).len.toNat = l.length := by
  rw [← Text.content_length, Text.holding_content h]

theorem Text.holding_byte {t : Text} {l : List Byte} (h : l.length ≤ 9) {i : Nat} (hi : i < l.length) : (t.holding l).byte i = l[i] := by
  rw [Text.holding, Text.terminate_byte_of_ne (by rw [Text.filled_len (by omega)]; omega), Text.filled_byte_of_lt (by omega)]

/-- The control unit when the copy loop stands at index `i` (rule R194). -/
def State.copying (s : State) (i : Nat) : State :=
  { s with
    store := Memory.writeText s.params s.ctrl.pbuf s.store i
    ctrlShell := { s.ctrlShell with idx := BitVec.ofNat 4 i } }

/-- The copy loop, from index 0 to the text's length (rule R194). -/
theorem State.Serving.steps_copy (h : s.Serving) (hst : s.ctrlShell.st = .setpw) (hk : s.ctrlShell.step = 2)
    (hidx : s.ctrlShell.idx = 0) :
    Steps (Turn (.fg .ctrl)) s.ctrl.pbuf.len.toNat s (s.copying s.ctrl.pbuf.len.toNat) := by
  have hlt := s.ctrl.pbuf.len.isLt
  have hstart : s.copying 0 = s := by
    show { s with ctrlShell := { s.ctrlShell with idx := 0 } } = s
    rw [← hidx]
  have hturn (i : Nat) (hi : i < s.ctrl.pbuf.len.toNat) : Turn (.fg .ctrl) (s.copying i) (s.copying (i + 1)) := by
    have hmod : (BitVec.ofNat 4 i).toNat = i := by rw [BitVec.toNat_ofNat]; omega
    have hne : BitVec.ofNat 4 i ≠ s.ctrl.pbuf.len := fun he => by rw [he] at hmod; omega
    have hserving : (s.copying i).Serving := ⟨h.fore, h.port, h.booted, h.ready, h.cur⟩
    refine hserving.turn_own setpwHandler hst fun a => ?_
    rw [setpwStep_copy (s := { s.copying i with agenda := a }) hk hne]
    simp only [State.copying, hmod, BitVec.ofNat_add, Memory.writeText]
    rfl
  have hloop := Steps.of_forall (m := 0) (n := s.ctrl.pbuf.len.toNat) fun i _ hi => hturn i (by omega)
  rwa [hstart, Nat.zero_add] at hloop

/-- The control unit once a `cmd_setpw` frame has been served. -/
def State.stored (s : State) (text rest : List Byte) : State :=
  let t := s.ctrl.pbuf.holding text
  { s with
    ctrl := { s.ctrl with rxq := rest, pbuf := t, act := .idle }
    store := Memory.writeText s.params t s.store t.len.toNat
    ctrlShell := { s.ctrlShell with st := .wait, step := 0, idx := BitVec.ofNat 4 t.len.toNat, pwlen := t.len } }

/-- The text stands in the password region (rule R194). -/
theorem State.stored_read (hp : s.params.wf = true) (hlen : text.length ≤ 9) {i : Nat} (hi : i < text.length) :
    (s.stored text rest).store.read (s.params.pwBase + i) = some text[i] := by
  have hheld := Text.holding_len (t := s.ctrl.pbuf) hlen
  exact (Memory.read_writeText hp _ _ (by omega) (by omega)).trans (congrArg _ (Text.holding_byte hlen hi))

theorem State.stored_read_other (hp : s.params.wf = true) (hlen : text.length ≤ 9) {a : Nat}
    (ha : ∀ i < text.length, a ≠ s.params.pwBase + i) : (s.stored text rest).store.read a = s.store.read a := by
  have hheld := Text.holding_len (t := s.ctrl.pbuf) hlen
  exact Memory.read_writeText_other hp _ _ (by omega) fun i hi => ha i (by omega)

theorem State.Serving.stored (h : s.Serving) : (s.stored text rest).Serving :=
  ⟨h.fore, h.port, h.booted, (Block.ready_iff _).2 ⟨((Block.ready_iff _).1 h.ready).1, rfl⟩, h.cur⟩

theorem State.Serving.steps_setpw (h : s.Serving) (hst : s.ctrlShell.st = .wait) (hk : s.ctrlShell.step = 0)
    (hlen : text.length ≤ 9) (hne : ∀ b ∈ text, b ≠ 0x00) (hq : s.ctrl.rxq = 0x30 :: (text ++ 0x00 :: rest)) :
    Steps (Turn (.fg .ctrl)) (2 * text.length + 5) s (s.stored text rest) := by
  have hready := (Block.ready_iff { s.ctrl with act := .idle }).2 ⟨((Block.ready_iff _).1 h.ready).1, rfl⟩
  let taken := (s.received .ctrl text rest).ctrlGo .setpw 1
  let cleared := { taken with ctrlShell := { taken.ctrlShell with idx := 0, step := 2 } }
  let copied := cleared.copying taken.ctrl.pbuf.len.toNat
  let kept := { copied with ctrlShell := { copied.ctrlShell with step := 3 } }
  have htaken : taken.Serving := ⟨h.fore, h.port, h.booted, hready, h.cur⟩
  have hcleared : cleared.Serving := ⟨h.fore, h.port, h.booted, hready, h.cur⟩
  have hcopied : copied.Serving := ⟨h.fore, h.port, h.booted, hready, h.cur⟩
  have hkept : kept.Serving := ⟨h.fore, h.port, h.booted, hready, h.cur⟩
  have hclear : Turn (.fg .ctrl) taken cleared := htaken.turn_own setpwHandler rfl fun a =>
    setpwStep_clearIdx (s := { taken with agenda := a }) rfl rfl
  have hcopy : Steps (Turn (.fg .ctrl)) taken.ctrl.pbuf.len.toNat cleared copied := hcleared.steps_copy rfl rfl rfl
  have hend : Turn (.fg .ctrl) copied kept := hcopied.turn_own setpwHandler rfl fun a =>
    setpwStep_copied (s := { copied with agenda := a }) rfl rfl (BitVec.ofNat_toNat ..)
  have hkeep : Turn (.fg .ctrl) kept (s.stored text rest) := hkept.turn_own setpwHandler rfl fun a =>
    setpwStep_keepLength (s := { kept with agenda := a }) rfl
  have hall := ((((h.steps_frame_payload setpwHandler hst hk rfl hlen hne hq).trans (.single hclear)).trans hcopy).trans
    (.single hend)).trans (.single hkeep)
  have htext : taken.ctrl.pbuf.len.toNat = text.length := Text.holding_len hlen
  rwa [show text.length + 2 + 1 + taken.ctrl.pbuf.len.toNat + 1 + 1 = 2 * text.length + 5 by omega] at hall

end

/-- A whole list of the control unit's turns, whichever unit moved before. -/
theorem run_of_steps {n : Nat} {s t : State} (h : Steps (Turn (.fg .ctrl)) (n + 1) { s with cur := .ctrl } t)
    (ha : s.agenda = List.replicate (n + 1) (.fg .ctrl)) :
    Host.Core.run Sys2Proof.core (n + 1) s = .next { t with agenda := [] } :=
  (Runs.of_steps h).run_eq ha (by simp)

/-- Settles O39: the payload, the copy loop, the length. -/
theorem setpwFrameStoresThePassword : Obligations.SetpwFrameStoresThePassword := by
  intro s text rest hp hfore hport hb hr hst hk hlen hne hq ha
  have hserving : State.Serving { s with cur := .ctrl } := ⟨hfore, hport, hb, hr, rfl⟩
  exact ⟨_, run_of_steps (hserving.steps_setpw hst hk hlen hne hq) ha,
    fun _ => State.stored_read (s := { s with cur := .ctrl }) (rest := rest) hp hlen,
    fun _ => State.stored_read_other (s := { s with cur := .ctrl }) (rest := rest) hp hlen,
    Text.holding_len (t := s.ctrl.pbuf) hlen, rfl, rfl, rfl, rfl, rfl, rfl, rfl, rfl⟩

/-! ## A `cmd_verify` frame -/

/-- Two texts match when they have the same content. -/
theorem textsMatch_iff_content (x y : Text) : textsMatch x y = true ↔ x.content = y.content := by
  rw [textsMatch_iff]
  constructor
  · rintro ⟨hlen, hbytes⟩
    simp only [Text.content, ← hlen]
    exact List.map_congr_left fun i hi => hbytes i (List.mem_range.1 hi)
  · intro h
    have hlen : x.len.toNat = y.len.toNat := by rw [← Text.content_length, h, Text.content_length]
    refine ⟨BitVec.eq_of_toNat_eq hlen, fun i hi => ?_⟩
    have hx := Text.content_getElem x (i := i) (by simpa using hi)
    rw [← hx, ← Text.content_getElem y (i := i) (by simpa [← hlen] using hi)]
    exact List.getElem_of_eq h _

/-- The stored password as the read-back loop finds it. -/
def State.password (s : State) (n : Nat) : List Byte := (List.range n).map s.storedByte

theorem State.password_length (s : State) (n : Nat) : (s.password n).length = n := by simp [State.password]

theorem State.password_succ (s : State) (n : Nat) : s.password (n + 1) = s.password n ++ [s.storedByte n] := by
  simp [State.password, List.range_succ]

section
variable {s : State} {text rest : List Byte}

/-- The control unit when the read-back loop stands at index `i` (rule R196). -/
def State.readingBack (s : State) (i : Nat) : State :=
  { s with
    ctrl := { s.ctrl with xbuf := { s.ctrl.xbuf with bytes := (s.ctrl.xbuf.filled (s.password i)).bytes } }
    ctrlShell := { s.ctrlShell with idx := BitVec.ofNat 4 i } }

/-- The read-back loop, from index 0 to the kept length (rule R196). -/
theorem State.Serving.steps_readBack (h : s.Serving) (hst : s.ctrlShell.st = .verify) (hk : s.ctrlShell.step = 2)
    (hidx : s.ctrlShell.idx = 0) :
    Steps (Turn (.fg .ctrl)) s.ctrlShell.pwlen.toNat s (s.readingBack s.ctrlShell.pwlen.toNat) := by
  have hlt := s.ctrlShell.pwlen.isLt
  have hstart : s.readingBack 0 = s := by
    have hnil : (s.ctrl.xbuf.filled (s.password 0)).bytes = s.ctrl.xbuf.bytes := by
      rw [show s.password 0 = [] from rfl, Text.filled_nil]
      rfl
    simp only [State.readingBack, hnil]
    show { s with ctrlShell := { s.ctrlShell with idx := 0 } } = s
    rw [← hidx]
  have hturn (i : Nat) (hi : i < s.ctrlShell.pwlen.toNat) : Turn (.fg .ctrl) (s.readingBack i) (s.readingBack (i + 1)) := by
    have hmod : (BitVec.ofNat 4 i).toNat = i := by rw [BitVec.toNat_ofNat]; omega
    have hne : BitVec.ofNat 4 i ≠ s.ctrlShell.pwlen := fun he => by rw [he] at hmod; omega
    have hserving : (s.readingBack i).Serving := ⟨h.fore, h.port, h.booted, h.ready, h.cur⟩
    refine hserving.turn_own verifyHandler hst fun a => ?_
    rw [verifyStep_read (s := { s.readingBack i with agenda := a }) hk hne]
    simp only [State.readingBack, hmod, BitVec.ofNat_add, State.password_succ, Text.filled_append_bytes, State.password_length]
    rfl
  have hloop := Steps.of_forall (m := 0) (n := s.ctrlShell.pwlen.toNat) fun i _ hi => hturn i (by omega)
  rwa [hstart, Nat.zero_add] at hloop

/-- The control unit once a `cmd_verify` frame has been served, and the HMI unit, which its verdict has been sent to. -/
def State.replied (s : State) (text rest : List Byte) : State :=
  let t := s.ctrl.pbuf.holding text
  let n := s.ctrlShell.pwlen
  let x := Text.terminate { bytes := (s.ctrl.xbuf.filled (s.password n.toNat)).bytes, len := n }
  { s with
    ctrl := { s.ctrl with rxq := rest, pbuf := t, xbuf := x, act := .idle }
    hmi := { s.hmi with rxq := s.hmi.rxq ++ [if textsMatch t x then 0x31 else 0x30] }
    ctrlShell := { s.ctrlShell with st := .wait, step := 0, idx := BitVec.ofNat 4 n.toNat } }

theorem State.replied_hmi_rxq (hlen : text.length ≤ 9) (hn : s.ctrlShell.pwlen.toNat ≤ 9) :
    (s.replied text rest).hmi.rxq = s.hmi.rxq ++ [if text = s.password s.ctrlShell.pwlen.toNat then 0x31 else 0x30] := by
  have hx : (Text.terminate { bytes := (s.ctrl.xbuf.filled (s.password s.ctrlShell.pwlen.toNat)).bytes, len := s.ctrlShell.pwlen }) =
      s.ctrl.xbuf.holding (s.password s.ctrlShell.pwlen.toNat) := by
    simp [Text.holding, Text.filled, State.password_length]
  simp only [State.replied, hx, textsMatch_iff_content, Text.holding_content hlen,
    Text.holding_content ((State.password_length s _).trans_le hn)]

theorem State.Serving.steps_verify (h : s.Serving) (hst : s.ctrlShell.st = .wait) (hk : s.ctrlShell.step = 0)
    (hlen : text.length ≤ 9) (hne : ∀ b ∈ text, b ≠ 0x00) (hq : s.ctrl.rxq = 0x31 :: (text ++ 0x00 :: rest)) :
    Steps (Turn (.fg .ctrl)) (text.length + s.ctrlShell.pwlen.toNat + 6) s (s.replied text rest) := by
  have hready := (Block.ready_iff { s.ctrl with act := .idle }).2 ⟨((Block.ready_iff _).1 h.ready).1, rfl⟩
  let taken := (s.received .ctrl text rest).ctrlGo .verify 1
  let cleared := { taken with ctrlShell := { taken.ctrlShell with idx := 0, step := 2 } }
  let back := cleared.readingBack s.ctrlShell.pwlen.toNat
  let ended := { back with ctrlShell := { back.ctrlShell with step := 3 } }
  let ready := { ended with
    ctrl := { ended.ctrl with xbuf := { ended.ctrl.xbuf with len := s.ctrlShell.pwlen }.terminate }
    ctrlShell := { ended.ctrlShell with step := 4 } }
  have htaken : taken.Serving := ⟨h.fore, h.port, h.booted, hready, h.cur⟩
  have hcleared : cleared.Serving := ⟨h.fore, h.port, h.booted, hready, h.cur⟩
  have hback : back.Serving := ⟨h.fore, h.port, h.booted, hready, h.cur⟩
  have hended : ended.Serving := ⟨h.fore, h.port, h.booted, hready, h.cur⟩
  have hreply : ready.Serving := ⟨h.fore, h.port, h.booted, hready, h.cur⟩
  have hclear : Turn (.fg .ctrl) taken cleared := htaken.turn_own verifyHandler rfl fun a =>
    verifyStep_clearIdx (s := { taken with agenda := a }) rfl rfl
  have hread : Steps (Turn (.fg .ctrl)) s.ctrlShell.pwlen.toNat cleared back := hcleared.steps_readBack rfl rfl rfl
  have hend : Turn (.fg .ctrl) back ended := hback.turn_own verifyHandler rfl fun a =>
    verifyStep_readBack (s := { back with agenda := a }) rfl rfl (BitVec.ofNat_toNat ..)
  have hterminate : Turn (.fg .ctrl) ended ready := hended.turn_own verifyHandler rfl fun a =>
    verifyStep_terminate (s := { ended with agenda := a }) rfl rfl
  have hsend : Turn (.fg .ctrl) ready (s.replied text rest) := hreply.turn_own verifyHandler rfl fun a =>
    verifyStep_reply (s := { ready with agenda := a }) hready rfl
  have hall := (((((h.steps_frame_payload verifyHandler hst hk rfl hlen hne hq).trans (.single hclear)).trans hread).trans
    (.single hend)).trans (.single hterminate)).trans (.single hsend)
  rwa [show text.length + 2 + 1 + s.ctrlShell.pwlen.toNat + 1 + 1 + 1 = text.length + s.ctrlShell.pwlen.toNat + 6 by omega] at hall

end

/-- Settles O40: the payload, the read-back loop, the verdict. -/
theorem verifyFrameIsAnsweredByTheVerdict : Obligations.VerifyFrameIsAnsweredByTheVerdict := by
  intro s text rest hfore hport hb hr hst hk hn hlen hne hq ha
  have hserving : State.Serving { s with cur := .ctrl } := ⟨hfore, hport, hb, hr, rfl⟩
  exact ⟨_, run_of_steps (hserving.steps_verify hst hk hlen hne hq) ha,
    State.replied_hmi_rxq (s := { s with cur := .ctrl }) (rest := rest) hlen hn, rfl, rfl, rfl, rfl, rfl, rfl, rfl⟩

/-! ## The round trip -/

/-- What a `cmd_setpw` frame has stored is read back. -/
theorem State.stored_password {s : State} {text rest : List Byte} (hp : s.params.wf = true) (hlen : text.length ≤ 9) :
    (s.stored text rest).password text.length = text := by
  refine List.ext_getElem (State.password_length ..) fun i hi hi' => ?_
  have hread := State.stored_read (rest := rest) hp hlen hi'
  have haddr : storeAddr (s.stored text rest).params i = s.params.pwBase + i := storeAddr_of_wf hp (by omega)
  simp [State.password, State.storedByte, memRead, haddr, hread]

/-- Settles O41: the two frames one after the other, the verdict by what the first one stored. -/
theorem setThenVerifyAnswersEquality : Obligations.SetThenVerifyAnswersEquality := by
  intro s pw cand rest hp hfore hport hb hr hst hk hpw hpwne hcand hcandne hq ha
  have hserving : State.Serving { s with cur := .ctrl } := ⟨hfore, hport, hb, hr, rfl⟩
  let between := State.stored { s with cur := .ctrl } pw (0x31 :: (cand ++ 0x00 :: rest))
  have hkept : between.ctrlShell.pwlen.toNat = pw.length := Text.holding_len (t := s.ctrl.pbuf) hpw
  have hsteps := (hserving.steps_setpw hst hk hpw hpwne hq).trans (hserving.stored.steps_verify rfl rfl hcand hcandne rfl)
  rw [show 2 * pw.length + 5 + (cand.length + between.ctrlShell.pwlen.toNat + 6) = 3 * pw.length + cand.length + 11 by omega] at hsteps
  refine ⟨_, run_of_steps hsteps ha, ?_, rfl, rfl, rfl⟩
  have hpassword : between.password pw.length = pw := State.stored_password (s := { s with cur := .ctrl }) hp hpw
  have hreply := State.replied_hmi_rxq (s := between) (rest := rest) hcand (by omega)
  rwa [hkept, hpassword] at hreply

end Sys2Proof.Machine
end

section
/-! PROOFS. A text operation served from the operation port, and a text carried from one unit to the other (rules R103, R173 to R175). -/

namespace Sys2Proof.Machine

/-! ## A word on the port -/

section
variable {r : Role} {s t : State}

theorem takeTurn_port (hcur : s.cur = r) (hw : (s.block r).timer.waiting = false) {w : Opw} {ws : List Opw}
    (hp : (s.block r).port = w :: ws) : takeTurn (.fg r) s = finishPort r (exec (decodeOpw w) s) := by
  subst hcur
  exact foregroundStep_of_port hw hp

/-- While the operation goes on the strobe stays down and the word stays (rule R103). -/
theorem finishPort_of_busy (ha : (t.block r).act ≠ .idle) (hd : (t.block r).opDone = false) : finishPort r (.next t) = .next t := by
  have hkept : (t.block r).finishPort = t.block r := by
    rw [Block.finishPort, if_neg ha, ← hd]
  rw [finishPort, hkept, State.setBlock_block]

theorem finishPort_of_idle (ha : (t.block r).act = .idle) :
    finishPort r (.next t) = .next (t.setBlock r { t.block r with port := (t.block r).port.tail, opDone := true }) := by
  rw [finishPort, Block.finishPort, if_pos ha]

/-- The unit has moved last, is free, and is presented the word of an operation, with others behind it. -/
structure State.Presented (s : State) (r : Role) (i : Instr) (ws : List Opw) : Prop where
  cur : s.cur = r
  ready : (s.block r).ready = true
  word : ∃ w, (s.block r).port = w :: ws ∧ decodeOpw w = i

theorem State.Presented.agenda {i : Instr} {ws : List Opw} (h : s.Presented r i ws) (a : List Event) :
    State.Presented { s with agenda := a } r i ws := by
  obtain ⟨hcur, hready, hword⟩ := h
  cases r <;> exact ⟨hcur, hready, hword⟩

theorem State.Presented.waiting {i : Instr} {ws : List Opw} (h : s.Presented r i ws) : (s.block r).timer.waiting = false :=
  ((Block.ready_iff _).1 h.ready).1

/-- A turn of that unit, in its own state or in a later one of the operation. -/
theorem State.Presented.takeTurn {i : Instr} {ws : List Opw} (h : s.Presented r i ws) (hcur : t.cur = s.cur)
    (hw : (t.block r).timer = (s.block r).timer) (hp : (t.block r).port = (s.block r).port) :
    Machine.takeTurn (.fg r) t = finishPort r (exec i t) := by
  obtain ⟨w, hport, rfl⟩ := h.word
  exact takeTurn_port (hcur.trans h.cur) (hw ▸ h.waiting) (hp.trans hport)

/-- The unit with its done strobe down. -/
def State.strobeDown (s : State) (r : Role) : State := s.setBlock r { s.block r with opDone := false }

@[simp] theorem State.strobeDown_block (s : State) (r : Role) : (s.strobeDown r).block r = { s.block r with opDone := false } :=
  State.block_setBlock _ _ _

@[simp] theorem State.strobeDown_block_peer (s : State) (r : Role) : (s.strobeDown r).block r.peer = s.block r.peer :=
  State.block_setBlock_peer _ _ _

@[simp] theorem State.strobeDown_cur (s : State) (r : Role) : (s.strobeDown r).cur = s.cur := State.setBlock_cur _ _ _

end

/-! ## `send_text` from the port -/

section
variable {r : Role} {s : State} {buf : BufSel} {ws : List Opw}

/-- Both units once a `send_text` from the port has completed. -/
def State.portSent (s : State) (r : Role) (buf : BufSel) (ws : List Opw) : State :=
  (s.setBlock r { s.block r with act := .idle, port := ws, opDone := true }).setBlock r.peer
    { s.block r.peer with rxq := (s.block r.peer).rxq ++ (((s.block r).text buf).content ++ [0x00]) }

@[simp] theorem Block.text_with_opDone (b : Block) (d : Bool) (buf : BufSel) : Block.text { b with opDone := d } buf = b.text buf := by
  cases buf <;> rfl

theorem finishPort_opSendText_strobeDown (hr : (s.block r).ready = true) :
    finishPort r (opSendText r buf (s.strobeDown r)) = finishPort r (opSendText r buf s) := by
  obtain ⟨hw, ha⟩ := (Block.ready_iff _).1 hr
  have hsent : (s.block r).act.sent buf = some 0 := sent_of_sending (.inr ⟨ha, rfl⟩)
  by_cases hlen : (0 : BitVec 4).toNat < ((s.block r).text buf).len.toNat
  · rw [opSendText_of_lt hw hsent hlen, opSendText_of_lt (by simpa using hw) (by simpa using hsent) (by simpa using hlen)]
    simp [finishPort, Block.finishPort, State.strobeDown]
  · rw [opSendText_of_le hw hsent (by omega), opSendText_of_le (by simpa using hw) (by simpa using hsent) (by simpa using hlen)]
    simp [finishPort, Block.finishPort, State.strobeDown]

section
variable (h : s.Presented r (.sendText buf) ws)
include h

theorem State.Presented.takeTurn_sendText_begin :
    Machine.takeTurn (.fg r) s = Machine.takeTurn (.fg r) ((s.strobeDown r).sending r buf 0) := by
  rw [h.takeTurn rfl rfl rfl, h.takeTurn (by simp [State.strobeDown]) (by simp [State.sending_own]) (by simp [State.sending_own]),
    exec_sendText, exec_sendText, State.sending_cur, State.strobeDown_cur, h.cur,
    opSendText_begin (by simpa [Block.ready] using h.ready), finishPort_opSendText_strobeDown h.ready]

theorem State.Presented.takeTurn_sendText_byte {i : Nat} (hi : i < ((s.block r).text buf).len.toNat) :
    Machine.takeTurn (.fg r) ((s.strobeDown r).sending r buf i) = .next ((s.strobeDown r).sending r buf (i + 1)) := by
  rw [h.takeTurn (by simp [State.strobeDown]) (by simp [State.sending_own]) (by simp [State.sending_own]),
    exec_sendText, State.sending_cur, State.strobeDown_cur, h.cur,
    opSendText_sending (by simpa using h.waiting) (by simpa using hi)]
  exact finishPort_of_busy (by simp [State.sending_own]) (by simp [State.sending_own])

theorem State.Presented.takeTurn_sendText_last :
    Machine.takeTurn (.fg r) ((s.strobeDown r).sending r buf ((s.block r).text buf).len.toNat) = .next (s.portSent r buf ws) := by
  obtain ⟨w, hport, -⟩ := h.word
  rw [h.takeTurn (by simp [State.strobeDown]) (by simp [State.sending_own]) (by simp [State.sending_own]),
    exec_sendText, State.sending_cur, State.strobeDown_cur, h.cur]
  have hsent := opSendText_sent (s := s.strobeDown r) (r := r) (buf := buf) (by simpa using h.waiting)
  simp only [State.strobeDown_block, Block.text_with_opDone] at hsent
  rw [hsent, finishPort_of_idle (by simp)]
  simp [State.portSent, State.strobeDown, hport]

/-- `send_text` on the port: the text and the terminator, one byte a turn; then the word has left the port. -/
theorem State.Presented.steps_sendText :
    Steps (Turn (.fg r)) (((s.block r).text buf).len.toNat + 1) s (s.portSent r buf ws) := by
  have hagenda (i : Nat) (a : List Event) : { (s.strobeDown r).sending r buf i with agenda := a } =
      (State.strobeDown { s with agenda := a } r).sending r buf i := by cases r <;> rfl
  have hlen (a : List Event) : (({ s with agenda := a } : State).block r).text buf = (s.block r).text buf := by cases r <;> rfl
  refine Steps.of_begin (σ := (s.strobeDown r).sending r buf) (fun v hv a => ?_) (fun i hi a => ?_) (fun a => ?_)
  · rw [← hv a, hagenda]
    exact (h.agenda a).takeTurn_sendText_begin
  · rw [hagenda, hagenda]
    exact (h.agenda a).takeTurn_sendText_byte (by rw [hlen]; exact hi)
  · have hlast := (h.agenda a).takeTurn_sendText_last
    rw [hlen] at hlast
    rw [hagenda, hlast]
    cases r <;> rfl

end

end

/-! ## `receive_text` from the port -/

section
variable {r : Role} {s : State} {text rest : List Byte} {ws : List Opw}

/-- The unit once a `receive_text` from the port has completed. -/
def State.portReceived (s : State) (r : Role) (text rest : List Byte) (ws : List Opw) : State :=
  s.setBlock r { s.block r with
    rxq := rest, pbuf := (s.block r).pbuf.holding text, act := .idle, port := ws, opDone := true }

section
variable (h : s.Presented r .receiveText ws) (hlen : text.length ≤ 9) (hne : ∀ b ∈ text, b ≠ 0x00)
include h

theorem State.Presented.takeTurn_receiving (i : Nat) : Machine.takeTurn (.fg r) ((s.strobeDown r).receiving r text rest i) =
    finishPort r (receiveTextByte r ((s.strobeDown r).receiving r text rest i)) := by
  rw [h.takeTurn (by simp) (by simp) (by simp), exec_receiveText, State.receiving_cur, State.strobeDown_cur, h.cur,
    opReceiveText_receiving (by simpa using h.waiting)]

theorem State.Presented.takeTurn_receiveText_last :
    Machine.takeTurn (.fg r) ((s.strobeDown r).receiving r text rest text.length) = .next (s.portReceived r text rest ws) := by
  obtain ⟨w, hport, -⟩ := h.word
  rw [h.takeTurn_receiving, receiveTextByte_received, finishPort_of_idle (by simp [State.received])]
  simp [State.portReceived, State.received, State.strobeDown, Text.holding, hport]

include hlen hne

theorem State.Presented.takeTurn_receiveText_byte {i : Nat} (hi : i < text.length) :
    Machine.takeTurn (.fg r) ((s.strobeDown r).receiving r text rest i) =
      .next ((s.strobeDown r).receiving r text rest (i + 1)) := by
  rw [h.takeTurn_receiving, receiveTextByte_receiving hlen hne hi]
  exact finishPort_of_busy (by simp) (by simp)

theorem State.Presented.takeTurn_receiveText_begin (hq : (s.block r).rxq = text ++ 0x00 :: rest) :
    Machine.takeTurn (.fg r) s = Machine.takeTurn (.fg r) ((s.strobeDown r).receiving r text rest 0) := by
  obtain ⟨w, hport, -⟩ := h.word
  rw [h.takeTurn rfl rfl rfl, exec_receiveText, h.cur, opReceiveText_begin h.ready hq, opReceiveText_receiving h.waiting]
  cases text with
  | nil =>
    rw [show (0 : Nat) = ([] : List Byte).length from rfl, h.takeTurn_receiveText_last, receiveTextByte_received,
      finishPort_of_idle (by simp [State.received])]
    simp [State.portReceived, State.received, Text.holding, hport]
  | cons b text =>
    rw [h.takeTurn_receiveText_byte hlen hne (Nat.succ_pos _), receiveTextByte_receiving hlen hne (Nat.succ_pos _)]
    simp [finishPort, Block.finishPort, State.receiving, State.strobeDown]

/-- `receive_text` on the port: the text and its terminator, one byte a turn; then the word has left the port. -/
theorem State.Presented.steps_receiveText (hq : (s.block r).rxq = text ++ 0x00 :: rest) :
    Steps (Turn (.fg r)) (text.length + 1) s (s.portReceived r text rest ws) := by
  have hagenda (i : Nat) (a : List Event) : { (s.strobeDown r).receiving r text rest i with agenda := a } =
      (State.strobeDown { s with agenda := a } r).receiving r text rest i := by cases r <;> rfl
  refine Steps.of_begin (σ := (s.strobeDown r).receiving r text rest) (fun v hv a => ?_) (fun i hi a => ?_) (fun a => ?_)
  · rw [← hv a, hagenda]
    exact (h.agenda a).takeTurn_receiveText_begin hlen hne (by cases r <;> exact hq)
  · rw [hagenda, hagenda]
    exact (h.agenda a).takeTurn_receiveText_byte hlen hne hi
  · rw [hagenda, (h.agenda a).takeTurn_receiveText_last]
    cases r <;> rfl

end

end

/-! ## Across the link -/

/-- Settles O31: the sender's turns leave the text and its terminator in the peer's queue, from which the receiver's take them. -/
theorem textCrossesTheLink : Obligations.TextCrossesTheLink := by
  intro s r buf hready hready' text hport hport' hq hlen hne ha
  have hown (q : Role) : ({ s with cur := r } : State).block q = s.block q := by cases q <;> rfl
  have hsend : State.Presented { s with cur := r } r (.sendText buf) [] :=
    ⟨rfl, (hown r).symm ▸ hready, _, (hown r).symm ▸ hport, by cases buf <;> rfl⟩
  let sent := State.portSent { s with cur := r } r buf []
  have htext : (({ s with cur := r } : State).block r).text buf = text := by rw [hown]
  have hpeer : ({ sent with cur := r.peer } : State).block r.peer = { s.block r.peer with rxq := text.content ++ [0x00] } := by
    have hqueue : (s.block r.peer).rxq ++ (text.content ++ [0x00]) = text.content ++ [0x00] := by rw [hq, List.nil_append]
    rw [← hqueue]
    cases r <;> rfl
  have hreceive : State.Presented { sent with cur := r.peer } r.peer .receiveText [] := by
    refine ⟨rfl, ?_, 0xB00000000000#48, ?_, rfl⟩ <;> rw [hpeer]
    · exact hready'
    · exact hport'
  have hlength : text.content.length = text.len.toNat := Text.content_length text
  have hsendRun := Runs.of_steps hsend.steps_sendText
  rw [htext] at hsendRun
  have hreceiveRun := Runs.of_steps (hreceive.steps_receiveText (hlength.trans_le hlen) hne (rest := []) (by rw [hpeer]))
  rw [hlength] at hreceiveRun
  refine ⟨_, (hsendRun.trans hreceiveRun).run_eq ha (by simp; omega), ?_⟩
  have hheld (b : Text) : (b.holding text.content).content = text.content := Text.holding_content (hlength.trans_le hlen)
  have hheldLen (b : Text) : (b.holding text.content).len = text.len :=
    BitVec.eq_of_toNat_eq ((Text.holding_len (hlength.trans_le hlen)).trans hlength)
  cases r <;> exact ⟨hheld _, hheldLen _, rfl, rfl, rfl, rfl, rfl, rfl, rfl⟩

end Sys2Proof.Machine
end

section
/-! PROOFS. The long delays (rule R140): their complete waits along every schedule, and on the schedule that handles each firing at
once. -/

namespace Sys2Proof.Machine

/-! ## The foreground's turns around a wait -/

section
variable {r : Role} {s : State} {n : Tick} {b : Count} {w : Opw} {ws : List Opw}

theorem foregroundStep_of_firmware (hw : (s.block r).timer.waiting = false) (hp : (s.block r).port = [])
    (hf : (s.block r).fore = .firmware) : foregroundStep r s = .next s := by
  simp [foregroundStep, hw, hp, hf]

section
variable (hcur : s.cur = r) (hw : (s.block r).timer.waiting = false) (hp : (s.block r).port = w :: ws)
  (hd : decodeOpw w = .waitTicks n 0 b 5 .cmp)
include hcur hw hp hd

/-- The word of a completed wait leaves the port (entries 3, 5). -/
theorem foregroundStep_wait_completed (ha : (s.block r).act = .inWait) :
    foregroundStep r s = .next (s.setBlock r { s.block r with act := .idle, port := ws, opDone := true }) := by
  rw [foregroundStep_of_port hw hp, hd, exec_waitTicks, hcur, opWaitTicks_of_completed hw ha, finishPort_of_idle (by simp)]
  simp [hp]

/-- The word of a wait begins it and stays (rules R103, R134). -/
theorem foregroundStep_wait_begins (hn : n ≠ 0) (ha : (s.block r).act = .idle) (ht : (s.block r).timer.ticks = 0) :
    foregroundStep r s = .next (s.setBlock r { s.block r with
      timer := (s.block r).timer.delaying n b, act := .inWait, opDone := false }) := by
  have hbegin : (s.block r).timer.beginWait n 0 b 5 .cmp = (s.block r).timer.delaying n b := if_neg hn
  rw [foregroundStep_of_port hw hp, hd, exec_waitTicks, hcur,
    opWaitTicks_of_divisor (p := 1024) ((Block.ready_iff _).2 ⟨hw, ha⟩) ht rfl, hbegin, if_neg hn]
  simp [finishPort, Block.finishPort]

end

end

/-! ## Every schedule -/

/-- Where a long delay stands in its present wait of `n` ticks, with the handler steps it has taken in it. -/
inductive Block.WaitPhase (n : Nat) (u : Block) : Nat → Prop
  | counting (timer : u.timer.Counting) (target : u.timer.wtarget.toNat = n) (act : u.act = .inWait) (port : u.port ≠ []) :
      u.WaitPhase n u.timer.ticks.toNat
  | completed (timer : u.timer.WaitDone) (act : u.act = .inWait) (port : u.port ≠ []) : u.WaitPhase n n
  | between (timer : u.timer.WaitDone) (act : u.act = .idle) : u.WaitPhase n 0

/-- A firmware unit in a delay of `m` waits of `n` ticks each, `w` the word of one, after `k` handler steps. -/
structure Block.LongDelay (w : Opw) (m n k : Nat) (u : Block) : Prop where
  fore : u.fore = .firmware
  cb : u.timer.cb = .tickInc
  port : u.port = List.replicate u.port.length w
  phase : ∃ served fired, served + u.port.length = m ∧ k = n * served + fired ∧ u.WaitPhase n fired

section
variable {n fired : Nat} {u v : Block}

theorem Block.WaitPhase.le (h : u.WaitPhase n fired) : fired ≤ n := by
  cases h with
  | counting timer target => exact target ▸ timer.below.le
  | completed => exact Nat.le_refl n
  | between => exact Nat.zero_le n

theorem Block.WaitPhase.congr (h : u.WaitPhase n fired) (ht : v.timer = u.timer) (ha : v.act = u.act) (hp : v.port = u.port) :
    v.WaitPhase n fired := by
  cases h with
  | counting timer target act port => rw [← ht] at *; exact .counting timer target (ha.trans act) (hp ▸ port)
  | completed timer act port => exact .completed (ht ▸ timer) (ha.trans act) (hp ▸ port)
  | between timer act => exact .between (ht ▸ timer) (ha.trans act)

theorem Block.WaitPhase.clockEvent (h : u.WaitPhase n fired) : Block.WaitPhase n { u with timer := u.timer.clockEvent } fired := by
  cases h with
  | counting timer target act port =>
    have := Block.WaitPhase.counting (n := n) (u := { u with timer := u.timer.clockEvent }) timer.clockEvent
      (by simpa using target) act port
    simpa using this
  | completed timer act port => exact .completed (by simpa [Timer.clockEvent_of_stopped timer.run] using timer) act port
  | between timer act => exact .between (by simpa [Timer.clockEvent_of_stopped timer.run] using timer) act

theorem Block.WaitPhase.takeInterrupt (h : u.WaitPhase n fired) :
    Block.WaitPhase n { u with timer := u.timer.takeInterrupt } (fired + if u.timer.irqLine = true then 1 else 0) := by
  have hstill (hq : u.timer.irqLine = false) (h : u.WaitPhase n fired) :
      Block.WaitPhase n { u with timer := u.timer.takeInterrupt } (fired + if u.timer.irqLine = true then 1 else 0) := by
    simpa [hq, Timer.takeInterrupt_of_irqLine_eq_false hq] using h
  cases h with
  | counting timer target act port =>
    rcases timer.takeInterrupt with ⟨hq, -⟩ | ⟨hq, hnext, hticks, htarget⟩ | ⟨hq, hdone, hlast⟩
    · exact hstill hq (.counting timer target act port)
    · have := Block.WaitPhase.counting (n := n) (u := { u with timer := u.timer.takeInterrupt }) hnext (htarget ▸ target) act port
      simpa [hq, hticks] using this
    · rw [if_pos hq, hlast, target]
      exact .completed hdone act port
  | completed timer act port => exact hstill timer.irqLine (.completed timer act port)
  | between timer act => exact hstill timer.irqLine (.between timer act)

end

section
variable {w : Opw} {m n k j : Nat} {u v : Block}

theorem Block.LongDelay.of_phase (h : u.LongDelay w m n k) (hf : v.fore = u.fore) (hc : v.timer.cb = u.timer.cb)
    (hp : v.port = u.port) (hphase : ∀ fired, u.WaitPhase n fired → v.WaitPhase n (fired + j)) : v.LongDelay w m n (k + j) := by
  obtain ⟨served, fired, hm, hk, hu⟩ := h.phase
  exact ⟨hf.trans h.fore, hc.trans h.cb, hp ▸ h.port, served, fired + j, hp ▸ hm, by omega, hphase fired hu⟩

theorem Block.LongDelay.congr (h : u.LongDelay w m n k) (hf : v.fore = u.fore) (ht : v.timer = u.timer) (ha : v.act = u.act)
    (hp : v.port = u.port) : v.LongDelay w m n k :=
  h.of_phase (j := 0) hf (congrArg _ ht) hp fun _ hu => hu.congr ht ha hp

theorem Block.LongDelay.clockEvent (h : u.LongDelay w m n k) : Block.LongDelay w m n k { u with timer := u.timer.clockEvent } :=
  h.of_phase (j := 0) rfl (by simp) rfl fun _ hu => hu.clockEvent

theorem Block.LongDelay.takeInterrupt (h : u.LongDelay w m n k) :
    Block.LongDelay w m n (k + if u.timer.irqLine = true then 1 else 0) { u with timer := u.timer.takeInterrupt } :=
  h.of_phase rfl (by simp) rfl fun _ hu => hu.takeInterrupt

end

section
variable {r : Role} {s t : State} {w : Opw} {n : Tick} {b : Count} {m k : Nat}
variable (hd : decodeOpw w = .waitTicks n 0 b 5 .cmp) (hn : n ≠ 0)
include hd hn

/-- The unit's own turn counts no handler step: it is blocked, returns from a completed wait, begins the next, or has nothing left
to do. -/
theorem Block.LongDelay.foregroundStep (hcur : s.cur = r) (h : (s.block r).LongDelay w m n.toNat k)
    (ht : Machine.foregroundStep r s = .next t) : (t.block r).LongDelay w m n.toNat k := by
  obtain ⟨served, fired, hm, hk, hphase⟩ := h.phase
  have hwords {v : Opw} {vs : List Opw} (hp : (s.block r).port = v :: vs) : v = w ∧ vs = List.replicate vs.length w := by
    have hport := h.port
    rw [hp, List.length_cons, List.replicate_succ] at hport
    exact List.cons.inj hport
  cases hphase with
  | counting timer target act port =>
    rw [foregroundStep_of_waiting timer.waiting] at ht
    cases ht
    exact h
  | completed timer act port =>
    obtain ⟨v, vs, hp⟩ := List.exists_cons_of_ne_nil port
    obtain ⟨rfl, hvs⟩ := hwords hp
    rw [foregroundStep_wait_completed hcur timer.waiting hp hd act] at ht
    cases ht
    rw [hp, List.length_cons] at hm
    rw [State.block_setBlock]
    exact ⟨h.fore, h.cb, hvs, served + 1, 0, by simp only; omega, by rw [Nat.mul_succ]; omega, .between timer rfl⟩
  | between timer act =>
    cases hp : (s.block r).port with
    | nil =>
      rw [foregroundStep_of_firmware timer.waiting hp h.fore] at ht
      cases ht
      exact h
    | cons v vs =>
      obtain ⟨rfl, hvs⟩ := hwords hp
      rw [foregroundStep_wait_begins hcur timer.waiting hp hd hn act timer.ticks] at ht
      cases ht
      rw [State.block_setBlock]
      refine ⟨h.fore, h.cb, h.port, served, 0, hm, hk, ?_⟩
      have hpos : 0 < n.toNat := by bv_omega
      have hzero : ((s.block r).timer.delaying n b).ticks.toNat = 0 := congrArg BitVec.toNat timer.ticks
      rw [← hzero]
      exact .counting ⟨rfl, h.cb, hzero ▸ hpos⟩ rfl rfl (by simp [hp])

/-- Any turn but the unit's reset and a further word on its port. -/
theorem Block.LongDelay.takeTurn {e : Event} (hreset : ∀ f, e ≠ .reset r f) (hpresent : ∀ v, e ≠ .present r v)
    (h : (s.block r).LongDelay w m n.toNat k) (ht : Machine.takeTurn e s = .next t) :
    (t.block r).LongDelay w m n.toNat (k + if e = .irq r ∧ (s.timer r).irqLine = true then 1 else 0) := by
  cases e with
  | fg q =>
    rw [if_neg nofun]
    rcases Role_eq_or_peer q r with rfl | rfl
    · exact Block.LongDelay.foregroundStep (s := { s with cur := q }) hd hn rfl (by cases q <;> exact h) ht
    · obtain ⟨p, hp, -⟩ := (takeTurn_fg_unitEffect ht).link.peer
      rw [Role_peer_peer] at hp
      rw [hp]
      cases r <;> exact h.congr rfl rfl rfl rfl
  | clk q =>
    rw [if_neg nofun]
    cases ht
    rcases Role_eq_or_peer q r with rfl | rfl
    · simpa using h.clockEvent
    · simpa using h
  | irq q =>
    cases ht
    rcases Role_eq_or_peer q r with rfl | rfl
    · simpa using h.takeInterrupt
    · simpa using h
  | key c =>
    cases ht
    simpa using h
  | present q v =>
    cases ht
    rw [presentWord_block_of_ne fun hq => hpresent v (by rw [hq])]
    simpa using h
  | reset q f =>
    cases ht
    rw [State.resetUnit_block_of_ne s fun hq => hreset f (by rw [hq])]
    simpa using h

omit hd hn in
theorem run_succ_eq_next {j : Nat} (h : Host.Core.run Sys2Proof.core (j + 1) s = .next t) :
    ∃ v, step s = .next v ∧ Host.Core.run Sys2Proof.core j v = .next t := by
  simp only [run_eq_runBy, runBy] at h ⊢
  split at h
  next v hv => exact ⟨v, hv, h⟩
  · cases h
  · cases h

/-- Along a whole schedule the handler steps taken are the ones counted. -/
theorem Block.LongDelay.run {sched : List Event} (hreset : ∀ f, Event.reset r f ∉ sched) (hpresent : ∀ v, Event.present r v ∉ sched)
    (ha : s.agenda = sched) (h : (s.block r).LongDelay w m n.toNat k) (ht : Host.Core.run Sys2Proof.core sched.length s = .next t) :
    (t.block r).LongDelay w m n.toNat (k + handlerSteps r sched.length s) := by
  induction sched generalizing s k with
  | nil =>
    cases ht
    exact h
  | cons e sched ih =>
    obtain ⟨v, hstep, hrun⟩ := run_succ_eq_next ht
    have hcount : handlerSteps r (sched.length + 1) s =
        (if e = .irq r ∧ (s.timer r).irqLine = true then 1 else 0) + handlerSteps r sched.length v := by
      simp only [handlerSteps, hstep, ha, List.head?_cons, Option.some.injEq]
    have hturn := (step_of_agenda ha).symm.trans hstep
    have hnext := Block.LongDelay.takeTurn (s := { s with agenda := sched }) hd hn
      (fun f hf => hreset f (hf ▸ List.mem_cons_self)) (fun w hw => hpresent w (hw ▸ List.mem_cons_self)) (by cases r <;> exact h) hturn
    rw [List.length_cons, hcount, ← Nat.add_assoc]
    exact ih (fun f hf => hreset f (List.mem_cons_of_mem _ hf)) (fun w hw => hpresent w (List.mem_cons_of_mem _ hw))
      (step_agenda ha hstep) (by cases r <;> exact hnext) hrun

end

/-! ## Each firing handled at once -/

section
variable {r : Role} {s : State} {t : Timer}

theorem Turn.clk (s : State) (r : Role) : Turn (.clk r) s (s.setTimer r (s.timer r).clockEvent) := fun _ => by cases r <;> rfl

theorem Turn.irq (s : State) (r : Role) : Turn (.irq r) s (s.setTimer r (s.timer r).takeInterrupt) := fun _ => by cases r <;> rfl

theorem Runs.clk (s : State) (r : Role) (m : Nat) :
    Runs (List.replicate m (.clk r)) s (s.setTimer r (clockEvents m (s.timer r))) := by
  induction m generalizing s with
  | zero =>
    exact (State.setBlock_block s r).symm
  | succ m ih =>
    refine ⟨_, Turn.clk s r, ?_⟩
    simpa [clockEvents] using ih (s.setTimer r (s.timer r).clockEvent)

@[simp] theorem Timer.countEvent_run (t : Timer) : t.countEvent.run = t.run := by unfold Timer.countEvent; split <;> rfl

@[simp] theorem Timer.countEvent_psel (t : Timer) : t.countEvent.psel = t.psel := by unfold Timer.countEvent; split <;> rfl

@[simp] theorem Timer.countEvent_pdiv (t : Timer) : t.countEvent.pdiv = t.pdiv := by unfold Timer.countEvent; split <;> rfl

/-- From a cleared divider every `P(PSEL)` clock events are one count event (rule R135). -/
theorem clockEvents_mul {p : Nat} (hr : t.run = true) (hp : divisor t.psel = some p) (hd : t.pdiv = 0) (m : Nat) :
    clockEvents (m * p) t = countEvents m t := by
  induction m generalizing t with
  | zero => rw [Nat.zero_mul]; rfl
  | succ m ih =>
    rw [Nat.succ_mul, Nat.add_comm, clockEvents_add, clockEvents_divisor hr hp hd]
    exact ih (by simpa using hr) (by simpa using hp) (by simpa using hd)

/-- A timer group in a wait of a delay, at the start of a period. -/
structure Timer.InDelay (n : Tick) (b : Count) (t : Timer) : Prop where
  cb : t.cb = .tickInc
  delaying : t = t.delaying n b

section
variable {n : Tick} {b : Count} (h : t.InDelay n b)
include h

/-- The clock events of one period, the last of which fires. -/
theorem Timer.InDelay.clockEvents : clockEvents ((b.toNat + 1) * 1024) t = { t with pending := true } := by
  have hevents : t.eventsToFiring = b.toNat + 1 := by
    rw [h.delaying, Timer.eventsToFiring_of_cmp rfl]
    simp [Timer.delaying]
  rw [clockEvents_mul (p := 1024) (by rw [h.delaying]; rfl) (by rw [h.delaying]; rfl) (by rw [h.delaying]; rfl),
    (countEvents_eventsToFiring (by rw [h.delaying]; rfl) hevents).2]
  have hcount : t.count = 0 := by rw [h.delaying]; rfl
  rw [← hcount]

/-- The firing is handled as a tick, or as the last one (rules R266, R267). -/
theorem Timer.InDelay.takeInterrupt : Timer.takeInterrupt { t with pending := true } =
    if t.ticks + 1 = n then t.waitComplete else { t with ticks := t.ticks + 1 } := by
  have hq : Timer.irqLine { t with pending := true } = true := by rw [h.delaying]; rfl
  have hw : t.waiting = true := by rw [h.delaying]; rfl
  have htarget : t.wtarget = n := by rw [h.delaying]; rfl
  have hpending : t.pending = false := by rw [h.delaying]; rfl
  split
  next hlast => exact Timer.takeInterrupt_of_target hq h.cb hw (hlast.trans htarget.symm)
  next hmore =>
    rw [Timer.takeInterrupt_of_not_target hq h.cb fun he => hmore (he.2.trans htarget), ← hpending]

theorem Timer.InDelay.tick : Timer.InDelay n b { t with ticks := t.ticks + 1 } := by
  refine ⟨h.cb, ?_⟩
  conv_lhs => rw [h.delaying]
  rfl

end

/-- The turns of one firing that is handled at once. -/
theorem Runs.firing {n : Tick} {b : Count} (h : (s.timer r).InDelay n b) :
    Runs (List.replicate ((b.toNat + 1) * 1024) (.clk r) ++ [.irq r]) s (s.setTimer r
      (if (s.timer r).ticks + 1 = n then (s.timer r).waitComplete else { s.timer r with ticks := (s.timer r).ticks + 1 })) := by
  have hclk := Runs.clk s r ((b.toNat + 1) * 1024)
  rw [h.clockEvents] at hclk
  rw [← h.takeInterrupt]
  refine hclk.trans (.single ?_)
  simpa using Turn.irq (s.setTimer r { s.timer r with pending := true }) r

/-- The firings left in a wait, each handled at once, complete it. -/
theorem Runs.firings {n : Tick} {b : Count} {j : Nat} (h : (s.timer r).InDelay n b)
    (hj : (s.timer r).ticks.toNat + (j + 1) = n.toNat) :
    Runs (List.replicate (j + 1) (List.replicate ((b.toNat + 1) * 1024) (.clk r) ++ [.irq r])).flatten s
      (s.setTimer r (s.timer r).waitComplete) := by
  have hfiring := Runs.firing h
  induction j generalizing s with
  | zero =>
    rw [if_pos (by bv_omega)] at hfiring
    simpa using hfiring
  | succ j ih =>
    rw [if_neg (by bv_omega)] at hfiring
    let ticked : Timer := { s.timer r with ticks := (s.timer r).ticks + 1 }
    have hticked : (s.setTimer r ticked).timer r = ticked := by simp
    have hticks : ticked.ticks.toNat = (s.timer r).ticks.toNat + 1 := by
      show ((s.timer r).ticks + 1).toNat = _
      bv_omega
    have hin : ((s.setTimer r ticked).timer r).InDelay n b := by rw [hticked]; exact h.tick
    have hrest := ih hin (by rw [hticked]; omega) (Runs.firing hin)
    have hend : (s.setTimer r ticked).setTimer r ((s.setTimer r ticked).timer r).waitComplete =
        s.setTimer r (s.timer r).waitComplete := by rw [hticked]; cases r <;> rfl
    rw [List.replicate_succ, List.flatten_cons, ← hend]
    exact hfiring.trans hrest

/-- A turn of a foreground that writes its own unit's registers. -/
theorem Turn.fg {u : Block} (h : ∀ v : State, v.cur = r → v.block r = s.block r → foregroundStep r v = .next (v.setBlock r u)) :
    Turn (.fg r) s ({ s with cur := r }.setBlock r u) := by
  intro a
  refine (h { s with agenda := a, cur := r } rfl (by cases r <;> rfl)).trans ?_
  cases r <;> rfl

/-- A firmware unit at the start of a wait of a delay, `w` the word of one and `left` of them on its port. -/
structure Block.AtWait (w : Opw) (n : Tick) (b : Count) (left : Nat) (u : Block) : Prop where
  fore : u.fore = .firmware
  act : u.act = .inWait
  port : u.port = List.replicate left w
  timer : u.timer.InDelay n b
  ticks : u.timer.ticks = 0

/-- The unit with its wait completed and the wait's word gone from the port. -/
def Block.waited (u : Block) : Block :=
  { u with timer := u.timer.waitComplete, act := .idle, port := u.port.tail, opDone := true }

section
variable {w : Opw} {n : Tick} {b : Count} {left : Nat} (hd : decodeOpw w = .waitTicks n 0 b 5 .cmp) (hn : n ≠ 0)
include hd hn

/-- The firings of one wait, and the foreground's return from it. -/
theorem Block.AtWait.runs_return (h : (s.block r).AtWait w n b (left + 1)) :
    Runs ((List.replicate n.toNat (List.replicate ((b.toNat + 1) * 1024) (.clk r) ++ [.irq r])).flatten ++ [.fg r]) s
      ({ s.setTimer r (s.timer r).waitComplete with cur := r }.setBlock r (s.block r).waited) := by
  have hticks : (s.timer r).ticks.toNat = 0 := congrArg BitVec.toNat h.ticks
  obtain ⟨j, hj⟩ : ∃ j, n.toNat = j + 1 := ⟨n.toNat - 1, by bv_omega⟩
  have hfirings := Runs.firings (j := j) h.timer (by omega)
  rw [hj]
  refine hfirings.trans (.single (Turn.fg fun v hcur hv => ?_))
  have hv : v.block r = { s.block r with timer := (s.timer r).waitComplete } := by rw [hv]; simp
  have hport : (v.block r).port = w :: List.replicate left w := by rw [hv]; exact h.port
  rw [foregroundStep_wait_completed hcur (by rw [hv]; rfl) hport hd (by rw [hv]; exact h.act), hv]
  simp only [Block.waited, h.port]
  rfl

/-- The turns of one wait, its last one the foreground's next transition. -/
theorem Block.AtWait.runs_wait (h : (s.block r).AtWait w n b (left + 1)) {u : Block}
    (hu : ∀ v : State, v.cur = r → v.block r = (s.block r).waited → Machine.foregroundStep r v = .next (v.setBlock r u)) :
    ∃ t, Runs (waitTurns r n.toNat b) s t ∧ t.block r = u := by
  have hreturn := h.runs_return hd hn
  have hnext := hreturn.trans (.single (Turn.fg fun v hcur hv => hu v hcur (hv.trans (State.block_setBlock _ _ _))))
  rw [List.append_assoc] at hnext
  exact ⟨_, hnext, State.block_setBlock _ _ _⟩

/-- The turns of a wait that is not the last lead to the next one. -/
theorem Block.AtWait.runs_next (h : (s.block r).AtWait w n b (left + 2)) :
    ∃ t, Runs (waitTurns r n.toNat b) s t ∧ (t.block r).AtWait w n b (left + 1) := by
  have hport : (s.block r).waited.port = w :: List.replicate left w := by
    rw [Block.waited, h.port]
    rfl
  obtain ⟨t, hruns, ht⟩ := h.runs_wait hd hn fun v hcur hv => by
    rw [foregroundStep_wait_begins hcur (by rw [hv]; rfl) (hv ▸ hport) hd hn (by rw [hv]; rfl) (by rw [hv]; rfl), hv]
  refine ⟨t, hruns, ?_⟩
  rw [ht]
  exact ⟨h.fore, rfl, hport, ⟨h.timer.cb, rfl⟩, rfl⟩

/-- The turns of the last wait leave the port empty. -/
theorem Block.AtWait.runs_last (h : (s.block r).AtWait w n b 1) :
    ∃ t, Runs (waitTurns r n.toNat b) s t ∧ (t.block r).port = [] ∧ (t.block r).opDone = true ∧ (t.timer r).count = 0 := by
  have hport : (s.block r).waited.port = [] := by
    rw [Block.waited, h.port]
    rfl
  have hcount : (s.block r).timer.count = 0 := by
    rw [h.timer.delaying]
    rfl
  obtain ⟨t, hruns, ht⟩ := h.runs_wait hd hn (u := (s.block r).waited) fun v _ hv => by
    rw [foregroundStep_of_firmware (by rw [hv]; rfl) (hv ▸ hport) (by rw [hv]; exact h.fore), ← hv, State.setBlock_block]
  refine ⟨t, hruns, ?_⟩
  rw [State.timer_eq, ht]
  exact ⟨hport, rfl, hcount⟩

/-- The waits left, one after the other. -/
theorem Block.AtWait.runs_all (h : (s.block r).AtWait w n b (left + 1)) :
    ∃ t, Runs (List.replicate (left + 1) (waitTurns r n.toNat b)).flatten s t
      ∧ (t.block r).port = [] ∧ (t.block r).opDone = true ∧ (t.timer r).count = 0 := by
  induction left generalizing s with
  | zero => simpa using h.runs_last hd hn
  | succ left ih =>
    obtain ⟨v, hnext, hv⟩ := h.runs_next hd hn
    obtain ⟨t, hrest, ht⟩ := ih hv
    exact ⟨t, hnext.trans hrest, ht⟩

end

end

/-! ## The two rows -/

/-- At its first wait a long delay has taken no handler step. -/
theorem Block.AtWait.longDelay {u : Block} {w : Opw} {n : Tick} {b : Count} {m : Nat} (hn : n ≠ 0) (h : u.AtWait w n b (m + 1)) :
    u.LongDelay w (m + 1) n.toNat 0 := by
  have hlength : u.port.length = m + 1 := by rw [h.port, List.length_replicate]
  have hzero : u.timer.ticks.toNat = 0 := congrArg BitVec.toNat h.ticks
  have htarget : u.timer.wtarget = n := by rw [h.timer.delaying]; rfl
  have hwaiting : u.timer.waiting = true := by rw [h.timer.delaying]; rfl
  refine ⟨h.fore, h.timer.cb, hlength.symm ▸ h.port, 0, 0, by omega, rfl, ?_⟩
  rw [← hzero]
  exact .counting ⟨hwaiting, h.timer.cb, by rw [hzero, htarget]; bv_omega⟩ (congrArg _ htarget) h.act (by simp [h.port])

theorem State.block_agenda (s : State) (r : Role) (a : List Event) : ({ s with agenda := a } : State).block r = s.block r := by
  cases r <;> rfl

/-- What a schedule has brought a long delay to, in numbers. -/
theorem Block.LongDelay.bounds {u : Block} {w : Opw} {m n k : Nat} (h : u.LongDelay w m n k) :
    u.port.length ≤ m ∧ n * (m - u.port.length) ≤ k ∧ k ≤ n * (m - u.port.length + 1) ∧ k ≤ n * m
      ∧ (u.port.length = 0 → k = n * m ∧ u.act = .idle ∧ u.timer.WaitDone) := by
  obtain ⟨served, fired, hm, hk, hphase⟩ := h.phase
  have hserved : m - u.port.length = served := by omega
  have hfired := hphase.le
  have hsucc : n * (served + 1) = n * served + n := Nat.mul_succ n served
  have hend (hleft : u.port.length = 0) : fired = 0 ∧ u.act = .idle ∧ u.timer.WaitDone := by
    have hnil : u.port = [] := List.length_eq_zero_iff.1 hleft
    cases hphase with
    | counting _ _ _ port | completed _ _ port => exact absurd hnil port
    | between timer act => exact ⟨rfl, act, timer⟩
  rw [hserved]
  refine ⟨by omega, by omega, by omega, ?total, fun hleft => ?ended⟩
  case total =>
    by_cases hleft : u.port.length = 0
    · obtain ⟨hzero, -⟩ := hend hleft
      obtain rfl : served = m := by omega
      omega
    · have hmore : n * (served + 1) ≤ n * m := Nat.mul_le_mul_left n (by omega)
      omega
  case ended =>
    obtain ⟨hzero, hact, htimer⟩ := hend hleft
    obtain rfl : served = m := by omega
    exact ⟨by omega, hact, htimer⟩

/-- How `delay_60s` and `delay_3s` begin: at the first of their waits. -/
theorem exec_longDelay_atWait {s u : State} (hr : (s.block s.cur).ready = true) (hf : (s.block s.cur).fore = .firmware)
    (hp : (s.block s.cur).port = []) (ht : (s.timer s.cur).ticks = 0) (hc : (s.timer s.cur).cb = .tickInc) :
    (exec .delay60s s = .next u → (u.block s.cur).AtWait 0x40000E4E1B02#48 2 58593 4)
    ∧ (exec .delay3s s = .next u → (u.block s.cur).AtWait 0x400001E83B01#48 1 7811 3) := by
  constructor <;> intro h
  · rw [exec_delay60s_of_ready hr ht] at h
    cases h
    rw [State.block_setBlock, hp]
    exact ⟨hf, rfl, rfl, ⟨hc, rfl⟩, ht⟩
  · rw [exec_delay3s_of_ready hr ht] at h
    cases h
    rw [State.block_setBlock, hp]
    exact ⟨hf, rfl, rfl, ⟨hc, rfl⟩, ht⟩

/-- Settles O13: the handler steps are counted along every schedule, and the waits run one after the other where each firing is handled
at once. -/
theorem longDelaysTakeTheirCompleteWaits : Obligations.LongDelaysTakeTheirCompleteWaits := by
  rintro ⟨i, m, n, b⟩ hrow s u hr hf hp ht hc hexec
  obtain ⟨h60, h3⟩ := exec_longDelay_atWait (u := u) hr hf hp ht hc
  obtain ⟨w, ticks, left, hd, hn, rfl, rfl, h⟩ : ∃ w, ∃ ticks : Tick, ∃ left, decodeOpw w = .waitTicks ticks 0 b 5 .cmp ∧ ticks ≠ 0
      ∧ n = ticks.toNat ∧ m = left + 1 ∧ (u.block s.cur).AtWait w ticks b (left + 1) := by
    simp only [List.mem_cons, List.not_mem_nil, or_false, Prod.mk.injEq] at hrow
    rcases hrow with ⟨rfl, rfl, rfl, rfl⟩ | ⟨rfl, rfl, rfl, rfl⟩
    · exact ⟨_, 2, 3, rfl, by decide, rfl, rfl, h60 hexec⟩
    · exact ⟨_, 1, 2, rfl, by decide, rfl, rfl, h3 hexec⟩
  have hscheduled (sched : List Event) : (({ u with agenda := sched } : State).block s.cur).AtWait w ticks b (left + 1) := by
    rwa [State.block_agenda]
  refine ⟨fun sched t hreset hpresent hrun => ?counts, ?ends⟩
  case counts =>
    have hdelay := ((hscheduled sched).longDelay hn).run hd hn hreset hpresent rfl hrun
    rw [Nat.zero_add] at hdelay
    obtain ⟨hle, hlow, hhigh, htotal, hend⟩ := hdelay.bounds
    refine ⟨hle, hlow, hhigh, htotal, fun hleft => ?_⟩
    obtain ⟨hk, hact, hdone⟩ := hend hleft
    exact ⟨hk, hact, hdone.ticks, hdone.waiting, hdone.run, hdone.ie, hdone.pending⟩
  case ends =>
    obtain ⟨t, hruns, hport, hdone, hcount⟩ := (hscheduled _).runs_all hd hn
    exact ⟨_, hruns.run_eq rfl rfl, by rwa [State.block_agenda], by rwa [State.block_agenda],
      by rwa [State.timer_eq, State.block_agenda]⟩

end Sys2Proof.Machine
end
